-- ==== Sys2Proof/Word.lean ====
section
/-! DEFINITION. The word types of the block: every data path is one byte wide (R81), a pixel is one 32-bit word (R6). -/

namespace Sys2Proof

/-- A `u8`: port data, a memory byte, a DMA page (R8). -/
abbrev Byte := BitVec 8

/-- A `u16` system address (R6). -/
abbrev SysAddr := BitVec 16

/-- A `u14` video address (R6, R26). -/
abbrev VidAddr := BitVec 14

/-- One 32-bit RGB word of the frame; its byte layout is the `RGB` parameter's business (R81). -/
abbrev Pixel := BitVec 32

end Sys2Proof
end

