-- ==== Sys2Proof/Syntax.lean ====
section
/-! DEFINITION. The operations of the block as syntax: the rows of the opcode table (R104, R105), the ports of the
register window (R103) and the raw transaction words (R101, R102) that spell the operations. -/

namespace Sys2Proof

/-- The direction of a port or bus access (R100). -/
inductive Dir where
  | read
  | write
deriving DecidableEq, Repr, Inhabited

/-- The eight ports of the register window, in the order of their offsets 0..7 (R103). -/
inductive WindowPort where
  | control
  | mask
  | status
  | oamAddr
  | oamData
  | scroll
  | address
  | data
deriving DecidableEq, Repr, Inhabited

/-- One operation of the block: one constructor per row of the opcode table (R104, R105). `d` is the write data byte,
`page` the DMA page, `a` a system address. `CONSTRUCT` has no encoding (R290): it is an input of its own
(`Machine.Input.construct`), not an instruction. -/
inductive Instr where
  | tick
  | wrCtrl (d : Byte)
  | wrMask (d : Byte)
  | wrStatus (d : Byte)
  | wrOamaddr (d : Byte)
  | wrOamdata (d : Byte)
  | wrScroll (d : Byte)
  | wrAddr (d : Byte)
  | wrData (d : Byte)
  | rdCtrl
  | rdMask
  | rdStatus
  | rdOamaddr
  | rdOamdata
  | rdScroll
  | rdAddr
  | rdData
  | wrDma (page : Byte)
  | rdDma
  | busWr (a : SysAddr) (d : Byte)
  | busRd (a : SysAddr)
deriving DecidableEq, Repr

/-- A raw transaction word in its format: `PPU16` (R101) or `BUS25` (R102). The two formats are separate channels;
`PPU16` is always 16 bits and `BUS25` always 25 (R110). -/
inductive OpWord where
  | ppu16 (w : BitVec 16)
  | bus25 (w : BitVec 25)
deriving DecidableEq, Repr

end Sys2Proof
end

