-- ==== Sys2Proof/Config.lean ====
section
/-! DEFINITION. What an implementation or the platform fixes: the constants of R6, the types of the open parameters of
R7, and the free values (opaque constants without a body, so no proof can see a value of one). -/

namespace Sys2Proof

/-! ## Errors, as the block and its devices raise them -/

/-- The port a protocol violation names: one of the window's eight, or the DMA port (R262). -/
inductive Port where
  | window (p : WindowPort)
  | dma
deriving DecidableEq, Repr, Inhabited

/-- The two error kinds of the block (R260). The description text of a protocol violation is not specified; the port
and direction stand in its place (R262). -/
inductive Err where
  | unmappedAddress (a : SysAddr)
  | protocolViolation (port : Port) (dir : Dir)
deriving DecidableEq, Repr, Inhabited

/-! ## Dispatcher entries -/

/-- A memory that a handler of the video bus or of the system bus can name as its target (R62, R67): the block's video
memories (R35 to R37) or a Memory Region that belongs to the platform, named by its number in
`Machine.State.regions`. Sprite memory is none of them: only the DMA port writes it and only the sprite pass reads it
(R38, R78), so it is the target of the DMA destination dispatcher alone (`DmaTarget`). -/
inductive MemTarget where
  | pattern
  | nameTable0
  | nameTable1
  | palette
  | platform (id : Nat)
deriving DecidableEq, Repr

/-- The one target of the DMA destination dispatcher (R241). -/
inductive DmaTarget where
  | sprite
deriving DecidableEq, Repr

/-- Any target of a handler on the system bus (R62; log entry 20). -/
inductive Target where
  | mem (m : MemTarget)
  | window
  | dmaPort
  | device (id : Nat)
deriving DecidableEq, Repr

/-- One entry of a dispatcher (R62). -/
structure Handler (τ : Type) where
  base   : SysAddr
  size   : BitVec 16
  target : τ
deriving DecidableEq, Repr

/-! ## Parameters (R7) -/

/-- The parameter `DIAG`: is there a diagnostic status bit, which bit is it, and in which phase does it start (R31). -/
inductive Diag where
  | omit
  | alternate (mask : Byte) (phase0 : Bool)
deriving DecidableEq, Repr

/-- The parameters of R7 that a step reads. They are arguments of the model and no step changes them (R41). The host
fixes the form of `exec`, so they ride inside the state: a statement about every state holds for every value of
them. -/
structure Params where
  /-- the 64-entry RGB table -/
  rgb : Vector Pixel 64
  /-- the diagnostic status bit -/
  diag : Diag
  /-- system-bus base of the 8-port window -/
  ppuBase : SysAddr
  /-- system-bus address of the DMA port -/
  dmaPort : SysAddr
  /-- whether writes to pattern memory are accepted (R72) -/
  patternWritable : Bool
  /-- unmapped addresses the scheduler downgrades to no-ops (R266) -/
  benign : List SysAddr
  /-- the platform's entries of the system bus, in registration order (R80) -/
  sysHandlers : List (Handler Target)
deriving DecidableEq, Repr

namespace Config

/-! ## Fixed parameters (R6) -/

abbrev ticksPerLine : Nat := 341
abbrev linesPerFrame : Nat := 260
abbrev vblankEndLine : Nat := 20
abbrev firstVisibleLine : Nat := 20
abbrev frameRows : Nat := 240
abbrev frameCols : Nat := 256
abbrev ticksPerFrame : Nat := ticksPerLine * linesPerFrame
abbrev patternSize : Nat := 8192
abbrev nameTableSize : Nat := 1024
abbrev paletteSize : Nat := 32
abbrev spriteSize : Nat := 256
abbrev spriteEntries : Nat := 64
abbrev dmaLength : Nat := 256

/-! ## Free values -/

/-- What the device `id` answers to a bus read. -/
inductive DeviceReply where
  | byte (b : Byte)
  | raises (e : Err)
deriving DecidableEq, Repr, Inhabited

/-- The RGB table of the session that `State.reset` describes: OPEN, no entry is given (R7, D16). -/
opaque rgb : Vector Pixel 64

/-- The byte the CPU sees for a downgraded read: a draw (R266, I12). The argument numbers the draw. -/
opaque benignByte : Nat → Byte

/-- The pixel at (row, column) of a frame buffer that no rendering pass has written since its construction: a draw (R39,
I13). The first argument numbers the draw. -/
opaque resetPixel : Nat → Nat → Nat → Pixel

/-- The answer of a device outside the block to a read: device, offset, number of the draw (R62, R244). -/
opaque deviceRead : Nat → Nat → Nat → DeviceReply

/-- The error, if any, a device outside the block raises on a write: device, offset, data, number of the draw (R245). -/
opaque deviceWrite : Nat → Nat → Byte → Nat → Option Err

/-- What a renderer fetch at an unmapped video address would give. No fetch is at one (R131). -/
opaque unmappedFetch : VidAddr → Byte

end Config
end Sys2Proof
end

