-- ==== Sys2Proof/WellFormed.lean ====
section
/-! DEFINITION. Well-formedness of what the host hands the block: raw words (R109), CHR blobs (R290) and the platform's
handler list (R61, R80). An `Instr` needs no check of its own: its operand types hold exactly the values the operand
fields of its word can spell (R107). -/

namespace Sys2Proof

/-! ## Fields of a `PPU16` word (R101) -/

namespace Ppu16

def cls (w : BitVec 16) : BitVec 2 := w.extractLsb' 14 2
def dir (w : BitVec 16) : BitVec 1 := w.extractLsb' 13 1
def rsv (w : BitVec 16) : BitVec 2 := w.extractLsb' 11 2
def off (w : BitVec 16) : BitVec 3 := w.extractLsb' 8 3
def data (w : BitVec 16) : Byte := w.extractLsb' 0 8

/-- `cls = 11` is reserved (R109). -/
def classDefined (w : BitVec 16) : Bool := cls w != 0b11#2

/-- `rsv` must be `00` (R101, R109). -/
def rsvClear (w : BitVec 16) : Bool := rsv w == 0#2

/-- `data` must be `0x00` for a read and for a tick (R101, R109). -/
def dataClear (w : BitVec 16) : Bool := !(dir w == 1#1 || cls w == 0b00#2) || data w == 0#8

/-- `off` must be 0 in the DMA class (R101, R109). -/
def dmaOffClear (w : BitVec 16) : Bool := cls w != 0b10#2 || off w == 0#3

/-- A tick is the word `0x0000` (R101): DEDUCED that `dir` or `off` set in class `00` is reserved too, since no row of
R104 matches such a word and R106 leaves only R109 (log entry 5). -/
def tickZero (w : BitVec 16) : Bool := cls w != 0b00#2 || (dir w == 0#1 && off w == 0#3)

/-- The word spells an operation (R106, R109). -/
def wellFormed (w : BitVec 16) : Bool :=
  classDefined w && rsvClear w && dataClear w && dmaOffClear w && tickZero w

end Ppu16

/-! ## Fields of a `BUS25` word (R102) -/

namespace Bus25

def dir (w : BitVec 25) : BitVec 1 := w.extractLsb' 24 1
def addr (w : BitVec 25) : SysAddr := w.extractLsb' 8 16
def data (w : BitVec 25) : Byte := w.extractLsb' 0 8

/-- `data` must be `0x00` for a read (R102, R109). -/
def wellFormed (w : BitVec 25) : Bool := dir w != 1#1 || data w == 0#8

end Bus25

/-- The raw word spells an operation: it is not reserved (R109). -/
def OpWord.wellFormed : OpWord → Bool
  | .ppu16 w => Ppu16.wellFormed w
  | .bus25 w => Bus25.wellFormed w

/-! ## The host's other inputs -/

/-- A CHR blob that construction admits (R290). -/
def chrFits (chr : List Byte) : Bool := chr.length ≤ Config.patternSize

/-- The size of the memory a handler names, given the sizes of the platform's regions; `none` where the platform has no
such region. -/
def MemTarget.size (regionSizes : List Nat) : MemTarget → Option Nat
  | .pattern => some Config.patternSize
  | .nameTable0 => some Config.nameTableSize
  | .nameTable1 => some Config.nameTableSize
  | .palette => some Config.paletteSize
  | .platform id => regionSizes[id]?

/-- How many offsets a target answers; `none` for a device outside the block, which takes any offset. -/
def Target.extent (regionSizes : List Nat) : Target → Option Nat
  | .mem m => some ((m.size regionSizes).getD 0)
  | .window => some 8
  | .dmaPort => some 1
  | .device _ => none

/-- The handler reaches no offset its target does not have: the caller's duty of R61. -/
def handlerFits (regionSizes : List Nat) (h : Handler Target) : Bool :=
  match h.target.extent regionSizes with
  | some n => h.size.toNat ≤ n
  | none => true

/-- The platform's handler list keeps the caller's duty of R61. -/
def sysHandlersFit (regionSizes : List Nat) (hs : List (Handler Target)) : Bool :=
  hs.all (handlerFits regionSizes)

end Sys2Proof
end

