-- ==== Sys2Proof/Decode.lean ====
section
/-! DEFINITION. Decoding of the transaction words, total on every word, and the encoder written from the same tables
(R101 to R107, R109). -/

namespace Sys2Proof

/-! ## Port offsets (R103) -/

/-- The port at an offset of the register window (R103). -/
def WindowPort.ofOffset (off : BitVec 3) : WindowPort :=
  match off.toFin with
  | 0 => .control
  | 1 => .mask
  | 2 => .status
  | 3 => .oamAddr
  | 4 => .oamData
  | 5 => .scroll
  | 6 => .address
  | 7 => .data

/-- The offset of a port of the register window (R103). -/
def WindowPort.offset : WindowPort → BitVec 3
  | .control => 0
  | .mask => 1
  | .status => 2
  | .oamAddr => 3
  | .oamData => 4
  | .scroll => 5
  | .address => 6
  | .data => 7

/-! ## Decoding -/

/-- The write operation of a port, rows `WR_*` of R104. -/
def windowWriteInstr (p : WindowPort) (d : Byte) : Instr :=
  match p with
  | .control => .wrCtrl d
  | .mask => .wrMask d
  | .status => .wrStatus d
  | .oamAddr => .wrOamaddr d
  | .oamData => .wrOamdata d
  | .scroll => .wrScroll d
  | .address => .wrAddr d
  | .data => .wrData d

/-- The read operation of a port, rows `RD_*` of R104. -/
def windowReadInstr (p : WindowPort) : Instr :=
  match p with
  | .control => .rdCtrl
  | .mask => .rdMask
  | .status => .rdStatus
  | .oamAddr => .rdOamaddr
  | .oamData => .rdOamdata
  | .scroll => .rdScroll
  | .address => .rdAddr
  | .data => .rdData

/-- The operation a non-reserved `PPU16` word spells, read off its fields (R101, R104). -/
def ppu16Instr (w : BitVec 16) : Instr :=
  if Ppu16.cls w = 0b00#2 then .tick
  else if Ppu16.cls w = 0b01#2 then
    if Ppu16.dir w = 1#1 then windowReadInstr (.ofOffset (Ppu16.off w))
    else windowWriteInstr (.ofOffset (Ppu16.off w)) (Ppu16.data w)
  else if Ppu16.dir w = 1#1 then .rdDma
  else .wrDma (Ppu16.data w)

/-- The operation a non-reserved `BUS25` word spells (R102, R105). -/
def bus25Instr (w : BitVec 25) : Instr :=
  if Bus25.dir w = 1#1 then .busRd (Bus25.addr w) else .busWr (Bus25.addr w) (Bus25.data w)

/-- The operation a raw word spells; `none` for a reserved word (R106, R109). -/
def decode (w : OpWord) : Option Instr :=
  if w.wellFormed then
    some (match w with
      | .ppu16 w => ppu16Instr w
      | .bus25 w => bus25Instr w)
  else none

/-! ## Encoding -/

/-- Assembles a `PPU16` word from its fields (R101); `rsv` is `00`. -/
def ppu16Word (cls : BitVec 2) (dir : BitVec 1) (off : BitVec 3) (data : Byte) : OpWord :=
  .ppu16 (cls ++ dir ++ 0#2 ++ off ++ data)

/-- Assembles a `BUS25` word from its fields (R102). -/
def bus25Word (dir : BitVec 1) (addr : SysAddr) (data : Byte) : OpWord :=
  .bus25 (dir ++ addr ++ data)

/-- A register-window write (class `01`, direction `0`). -/
def windowWriteWord (p : WindowPort) (d : Byte) : OpWord := ppu16Word 0b01 0 p.offset d

/-- A register-window read (class `01`, direction `1`). -/
def windowReadWord (p : WindowPort) : OpWord := ppu16Word 0b01 1 p.offset 0

/-- The word of an operation (R104, R105). -/
def encode : Instr → OpWord
  | .tick => ppu16Word 0b00 0 0 0
  | .wrCtrl d => windowWriteWord .control d
  | .wrMask d => windowWriteWord .mask d
  | .wrStatus d => windowWriteWord .status d
  | .wrOamaddr d => windowWriteWord .oamAddr d
  | .wrOamdata d => windowWriteWord .oamData d
  | .wrScroll d => windowWriteWord .scroll d
  | .wrAddr d => windowWriteWord .address d
  | .wrData d => windowWriteWord .data d
  | .rdCtrl => windowReadWord .control
  | .rdMask => windowReadWord .mask
  | .rdStatus => windowReadWord .status
  | .rdOamaddr => windowReadWord .oamAddr
  | .rdOamdata => windowReadWord .oamData
  | .rdScroll => windowReadWord .scroll
  | .rdAddr => windowReadWord .address
  | .rdData => windowReadWord .data
  | .wrDma page => ppu16Word 0b10 0 0 page
  | .rdDma => ppu16Word 0b10 1 0 0
  | .busWr a d => bus25Word 0 a d
  | .busRd a => bus25Word 1 a 0

/-! ## The opcode table's numbering -/

/-- The raw word whose bits are `w` in the numbering of the opcode table: rows of up to 16 bits are `PPU16` words, wider
rows `BUS25` words. `none` where `w` has a bit its format does not have. -/
def tableWord (nbits w : Nat) : Option OpWord :=
  if nbits ≤ 16 then
    if w < 2 ^ 16 then some (.ppu16 (BitVec.ofNat 16 w)) else none
  else if w < 2 ^ 25 then some (.bus25 (BitVec.ofNat 25 w)) else none

/-- The instruction the decoder reads from a word numbered as the opcode table numbers it. -/
def decodeTableWord (nbits w : Nat) : Option Instr :=
  (tableWord nbits w).bind decode

end Sys2Proof
end

