-- ==== Sys2Proof/Machine/State.lean ====
section
/-! DEFINITION. The state of the block as plain data, its outputs, and the reset state (10_state.md, R290). -/

namespace Sys2Proof.Machine

/-! ## Memories -/

/-- A memory: (address, byte) pairs in strictly rising order of address, none of them holding `0x00`, which is what an
unlisted address reads as (`Memory.wf`). Every memory of the block is zero after construction (R42), so an
empty list is the reset contents. -/
abbrev Memory := List Host.Cell

/-- A Memory Region is RAM or ROM (R60). -/
inductive RegionKind where
  | ram
  | rom
deriving DecidableEq, Repr

/-- A Memory Region of the platform (R60): CPU RAM, PRG ROM and the like, reached through the system bus. -/
structure Region where
  kind  : RegionKind
  size  : Nat
  bytes : Memory
deriving DecidableEq, Repr

/-! ## The frame -/

/-- One row of the frame: 256 pixel words (R39). -/
abbrev Row := Vector Pixel 256

/-- The frame buffer (R39): the rows written since construction, by strictly rising row number. A row not listed still
has its reset contents, which are a draw; `draw` numbers that draw. -/
structure Frame where
  draw : Nat
  rows : List (Nat × Row)
deriving DecidableEq, Repr

/-! ## Outputs -/

/-- An output event of the block (R9): the presented frame (R123) or the interrupt (R124). -/
inductive Event where
  | present (frame : Frame)
  | nmi
deriving DecidableEq, Repr

/-- What the last operation handed out: its read data, the error it raised to its issuer (R260), and the events it
emitted, in order (R10). -/
structure Output where
  data   : Option Byte
  error  : Option Err
  events : List Event
deriving DecidableEq, Repr

/-- Nothing handed out. -/
def Output.empty : Output := { data := none, error := none, events := [] }

/-! ## Inputs -/

/-- One input of the host (R100): a transaction word, a transaction word issued from inside the `Nmi` callback (R129),
or the construction of the block from a CHR blob (R290). -/
inductive Input where
  | op (w : OpWord)
  | nested (w : OpWord)
  | construct (chr : List Byte)
deriving DecidableEq, Repr

/-! ## The state -/

/-- Everything the spec gives the machine (10_state.md), with the parameters (R41), the platform's regions (R67), the
stream of operations to come (R4, R84) and the outputs of the last one (R10). -/
structure State where
  /-- control register (R22) -/
  ctrl : Byte
  /-- mask register (R23) -/
  mask : Byte
  /-- vertical-blank flag (R24) -/
  vblank : Bool
  /-- sprite-0 hit flag (R24) -/
  s0hit : Bool
  /-- video address latch (R26) -/
  vaddr : VidAddr
  /-- write toggle: `false` is 0, first write pending (R27) -/
  w : Bool
  /-- high address byte held between the two address-port writes (R28) -/
  addrHi : Byte
  /-- bookkeeping: the last phase-0 toggle write was an address write (R29) -/
  addrHiValid : Bool
  /-- bookkeeping: `vaddr` holds a value the source pins (R29) -/
  vaddrKnown : Bool
  /-- read-ahead latch (R30) -/
  readBuf : Byte
  /-- scroll registers (R32) -/
  scrollX : Byte
  scrollY : Byte
  /-- scanline timer (R34) -/
  tickCounter : Nat
  scanLine : Nat
  /-- pattern memory (R35) -/
  pat : Memory
  /-- name tables with their attribute tables (R36) -/
  nt0 : Memory
  nt1 : Memory
  /-- palette memory (R37) -/
  pal : Memory
  /-- sprite memory (R38) -/
  oam : Memory
  /-- frame buffer (R39) -/
  fb : Frame
  /-- fatal-error record (R40) -/
  halted : Option Err
  /-- `G.diagCount`, the status reads of the session (R31) -/
  diagCount : Nat
  /-- parameters, changed by no step (R41) -/
  params : Params
  /-- the platform's Memory Regions, by number (R67, R80) -/
  regions : List Region
  /-- the operations the host has issued and the block has not yet taken (R84) -/
  inbox : List Input
  /-- the operation under way was issued from inside the `Nmi` callback (R129) -/
  inCallback : Bool
  /-- outputs of the last operation (R10) -/
  out : Output
  /-- the model's own counter of draws: the number of the next free value -/
  draws : Nat
deriving DecidableEq, Repr

/-- How a step can stop for good. -/
inductive Fault where
  /-- raised by every operation of a block that already holds a fatal error: it has no step (R265). Exact to the spec;
  safe. -/
  | halted (e : Err)
deriving DecidableEq, Repr

/-- How a step can have no meaning. All but the first are the refusal reasons of the spec (R10, 93). -/
inductive Refusal where
  /-- raised by an arm of `exec` whose instruction has no meaning yet; safe -/
  | notModelled (mnemonic : String)
  /-- raised by `RD_DATA` and `WR_DATA` while `vaddr` is not pinned (R144, R148); safe -/
  | unsettledAddress
  /-- raised by a write into a ROM region (R60); safe -/
  | romWrite
  /-- raised by an access past the end of its target (R61, R76); safe -/
  | regionOutOfRange
  /-- raised by a write to pattern memory where it is not writable (R72); safe -/
  | patternWrite
  /-- raised by a reserved transaction word (R109); safe -/
  | reservedEncoding
  /-- raised by a `TICK` issued from inside the `Nmi` callback (R129); safe -/
  | reentrantTick
  /-- raised by the construction from a blob longer than 8192 bytes (R290); safe -/
  | chrTooLarge
deriving DecidableEq, Repr

/-! ## Reset -/

/-- The state right after construction with an empty CHR blob (R42), for given parameters, platform regions, count of
status reads and number of the frame buffer's draw. `vaddr` is not given by the spec: zero (log entry 7). -/
def State.fresh (params : Params) (regions : List Region) (diagCount draw : Nat) : State where
  ctrl := 0x00
  mask := 0x00
  vblank := false
  s0hit := false
  vaddr := 0
  w := false
  addrHi := 0x00
  addrHiValid := false
  vaddrKnown := false
  readBuf := 0x00
  scrollX := 0x00
  scrollY := 0x00
  tickCounter := 0
  scanLine := 0
  pat := []
  nt0 := []
  nt1 := []
  pal := []
  oam := []
  fb := { draw := draw, rows := [] }
  halted := none
  diagCount := diagCount
  params := params
  regions := regions
  inbox := []
  inCallback := false
  out := Output.empty
  draws := draw + 1

/-- The platform's regions of the spec's own test vectors (95_test_vectors.md): `RAM`, `RAM6`, `ROM` (log entry 9). -/
def resetRegions : List Region :=
  [{ kind := .ram, size := 0x0800, bytes := [] },
   { kind := .ram, size := 0x0080, bytes := [] },
   { kind := .rom, size := 0x8000, bytes := [] }]

/-- The parameters of the session `State.reset` describes: the defaults of R7, `DIAG` and the platform map as in
95_test_vectors.md, and a free RGB table (log entries 8, 9, 10). -/
def resetParams : Params where
  rgb := Config.rgb
  diag := .omit
  ppuBase := 0x2000
  dmaPort := 0x4014
  patternWritable := true
  benign := []
  sysHandlers :=
    [{ base := 0x0000, size := 0x0800, target := .mem (.platform 0) },
     { base := 0x6000, size := 0x0080, target := .mem (.platform 1) },
     { base := 0x8000, size := 0x8000, target := .mem (.platform 2) }]

/-- The machine right after the session's first construction, with an empty CHR blob (R42, R290). -/
def State.reset : State := State.fresh resetParams resetRegions 0 0

end Sys2Proof.Machine
end

