-- ==== Sys2Proof/Machine/Ops.lean ====
section
/-! DEFINITION. The shared operations: memory cells, frame rows, dispatchers, memory targets, the outcome of an
operation, and taking an error (20_memory.md, R260 to R267). -/

namespace Sys2Proof.Machine

/-! ## Memory cells (R60) -/

/-- The byte at an address; an unlisted address reads `0x00`. -/
def Memory.read : Memory → Nat → Byte
  | [], _ => 0
  | (k, v) :: m, a => if k = a then v else Memory.read m a

/-- Lists `v` at `a`, in order of address. -/
def Memory.insert (a : Nat) (v : Byte) : Memory → Memory
  | [] => [(a, v)]
  | (k, u) :: m =>
    if a < k then (a, v) :: (k, u) :: m
    else if a = k then (a, v) :: m
    else (k, u) :: Memory.insert a v m

/-- Sets the byte at an address. Setting `0x00` unlists the address, so equal memories are equal lists. -/
def Memory.write (m : Memory) (a : Nat) (v : Byte) : Memory :=
  if v = 0 then m.filter (fun c => c.1 ≠ a) else Memory.insert a v m

/-- The canonical form: addresses strictly rising, and no entry equal to what an unlisted address reads as. -/
abbrev Memory.wf (m : Memory) : Prop :=
  m.Pairwise (fun c d => c.1 < d.1) ∧ ∀ c ∈ m, c.2 ≠ 0

/-- Every listed address is below `n`. -/
abbrev Memory.below (m : Memory) (n : Nat) : Prop := ∀ c ∈ m, c.1 < n

/-- Stores bytes at consecutive addresses from `a` on. -/
def Memory.load (m : Memory) (a : Nat) : List Byte → Memory
  | [] => m
  | b :: bs => Memory.load (m.write a b) (a + 1) bs

/-! ## Frame rows (R39) -/

/-- The words of row `r`, where a rendering pass has written it since construction. -/
def Frame.row? (f : Frame) (r : Nat) : Option Row :=
  (f.rows.find? (fun e => e.1 = r)).map (·.2)

/-- Lists a row, in order of row number. -/
def Frame.insertRow (r : Nat) (row : Row) : List (Nat × Row) → List (Nat × Row)
  | [] => [(r, row)]
  | (k, old) :: rows =>
    if r < k then (r, row) :: (k, old) :: rows
    else if r = k then (r, row) :: rows
    else (k, old) :: Frame.insertRow r row rows

/-- Sets row `r`. -/
def Frame.setRow (f : Frame) (r : Nat) (row : Row) : Frame :=
  { f with rows := Frame.insertRow r row f.rows }

/-- The pixel at row `r`, column `c`: a free value where nothing has written it since construction (R39). -/
def Frame.pixel (f : Frame) (r : Nat) (c : Fin 256) : Pixel :=
  match f.row? r with
  | some row => row[c]
  | none => Config.resetPixel f.draw r c

/-! ## Dispatchers (R62 to R64) -/

/-- `h.base ≤ a < h.base + h.size`, in naturals, so nothing wraps at `0x10000` (R64). -/
def handlerCovers {τ : Type} (h : Handler τ) (a : SysAddr) : Bool :=
  h.base.toNat ≤ a.toNat && a.toNat < h.base.toNat + h.size.toNat

/-- `match(D, a)`: the first handler, in registration order, that covers the address (R64). -/
def findHandler {τ : Type} (hs : List (Handler τ)) (a : SysAddr) : Option (Handler τ) :=
  hs.find? (fun h => handlerCovers h a)

/-- The address relative to the handler's base, which the target sees (R65). -/
def handlerOffset {τ : Type} (h : Handler τ) (a : SysAddr) : Nat := a.toNat - h.base.toNat

/-- `registerHandler`: appends an entry and rejects nothing; the size defaults to 1 (R63). -/
def registerHandler {τ : Type} (hs : List (Handler τ)) (base : SysAddr) (target : τ) (size : BitVec 16 := 1) :
    List (Handler τ) :=
  hs ++ [{ base := base, size := size, target := target }]

/-- The handler list of the video bus `V` (R70). -/
def videoMap : List (Handler MemTarget) :=
  registerHandler (registerHandler (registerHandler (registerHandler []
    0x0000 .pattern 0x2000) 0x2000 .nameTable0 0x0400) 0x2400 .nameTable1 0x0400) 0x3F00 .palette 0x0020

/-- The handler list of the DMA destination dispatcher `O` (R241). -/
def dmaMap : List (Handler DmaTarget) := registerHandler [] 0x0000 .sprite 0x0100

/-- The handler list of the system bus: the register window, the DMA port, then the platform's entries (R80). -/
def sysMap (p : Params) : List (Handler Target) :=
  registerHandler (registerHandler [] p.ppuBase .window 8) p.dmaPort .dmaPort ++ p.sysHandlers

/-! ## Memory targets (R60, R61, R72, R75, R78) -/

/-- `norm(o)`: the four mirrored palette offsets fall on their backdrop cells (R75). -/
def palNorm (o : BitVec 5) : BitVec 5 :=
  if o = 0x10 ∨ o = 0x14 ∨ o = 0x18 ∨ o = 0x1C then o - 0x10 else o

/-- `PalRead(o)` (R75); the offset is below 32 by its type (R76). -/
def palRead (o : BitVec 5) (s : State) : Byte := s.pal.read (palNorm o).toNat

/-- `PalWrite(o, v)` (R75). -/
def palWrite (o : BitVec 5) (v : Byte) (s : State) : State :=
  { s with pal := s.pal.write (palNorm o).toNat v }

/-- Reads one byte of a memory target at an offset. No read has a side effect (R74). An offset past the end is refused
(R61, R76). -/
def memRead (t : MemTarget) (off : Nat) (s : State) : Except Refusal Byte :=
  match t with
  | .pattern => if off < Config.patternSize then .ok (s.pat.read off) else .error .regionOutOfRange
  | .nameTable0 => if off < Config.nameTableSize then .ok (s.nt0.read off) else .error .regionOutOfRange
  | .nameTable1 => if off < Config.nameTableSize then .ok (s.nt1.read off) else .error .regionOutOfRange
  | .palette => if off < Config.paletteSize then .ok (palRead (BitVec.ofNat 5 off) s) else .error .regionOutOfRange
  | .platform id =>
    match s.regions[id]? with
    | some r => if off < r.size then .ok (r.bytes.read off) else .error .regionOutOfRange
    | none => .error .regionOutOfRange

/-- Writes one byte of a memory target at an offset (R60, R74). Pattern memory is writable where `PATTERN_WRITABLE`
holds (R72); a write into a ROM region is refused (R60). -/
def memWrite (t : MemTarget) (off : Nat) (v : Byte) (s : State) : Except Refusal State :=
  match t with
  | .pattern =>
    if off < Config.patternSize then
      if s.params.patternWritable then .ok { s with pat := s.pat.write off v } else .error .patternWrite
    else .error .regionOutOfRange
  | .nameTable0 =>
    if off < Config.nameTableSize then .ok { s with nt0 := s.nt0.write off v } else .error .regionOutOfRange
  | .nameTable1 =>
    if off < Config.nameTableSize then .ok { s with nt1 := s.nt1.write off v } else .error .regionOutOfRange
  | .palette =>
    if off < Config.paletteSize then .ok (palWrite (BitVec.ofNat 5 off) v s) else .error .regionOutOfRange
  | .platform id =>
    match s.regions[id]? with
    | some r =>
      if off < r.size then
        match r.kind with
        | .ram => .ok { s with regions := s.regions.set id { r with bytes := r.bytes.write off v } }
        | .rom => .error .romWrite
      else .error .regionOutOfRange
    | none => .error .regionOutOfRange

/-- Writes one byte of a target of the DMA destination (R78, R241): sprite memory, which nothing else writes (R38). -/
def dmaTargetWrite (t : DmaTarget) (off : Nat) (v : Byte) (s : State) : Except Refusal State :=
  match t with
  | .sprite =>
    if off < Config.spriteSize then .ok { s with oam := s.oam.write off v } else .error .regionOutOfRange

/-! ## The course of an operation (R10) -/

/-- How the body of an operation ends: done with a result and the new state; raised an error, with the state it leaves
(R264); or refused. -/
inductive Res (α : Type) where
  | done (a : α) (s : State)
  | raised (e : Err) (s : State)
  | refused (r : Refusal)
deriving Repr

/-- A dispatcher read whose targets are memories (R65). -/
def busMemRead (hs : List (Handler MemTarget)) (a : SysAddr) (s : State) : Res Byte :=
  match findHandler hs a with
  | none => .raised (.unmappedAddress a) s
  | some h =>
    match memRead h.target (handlerOffset h a) s with
    | .ok b => .done b s
    | .error r => .refused r

/-- A dispatcher write whose targets are memories, written by `write` (R66). -/
def busMemWrite {τ : Type} (write : τ → Nat → Byte → State → Except Refusal State) (hs : List (Handler τ)) (a : SysAddr)
    (v : Byte) (s : State) : Res Unit :=
  match findHandler hs a with
  | none => .raised (.unmappedAddress a) s
  | some h =>
    match write h.target (handlerOffset h a) v s with
    | .ok s' => .done () s'
    | .error r => .refused r

/-- `MemRead.V(a, 1)`: a read on the video bus (R70, R73). -/
def videoRead (a : VidAddr) (s : State) : Res Byte := busMemRead videoMap (a.setWidth 16) s

/-- `MemWrite.V(a, 1, v)`: a write on the video bus (R70, R73). -/
def videoWrite (a : VidAddr) (v : Byte) (s : State) : Res Unit :=
  busMemWrite memWrite videoMap (a.setWidth 16) v s

/-! ## Taking an error (R264 to R266) -/

/-- The code of an error kind (R261, R262). -/
def errCode : Err → Nat
  | .unmappedAddress _ => 1
  | .protocolViolation _ _ => 2

/-- The scheduler downgrades an unmapped address in `BENIGN`, and nothing else (R266). -/
def downgraded (p : Params) : Err → Bool
  | .unmappedAddress a => p.benign.contains a
  | .protocolViolation _ _ => false

/-- Taking an error, the block's only exception: it is handed to the issuer; a fatal one is recorded in `halted`, a
downgraded one leaves the block running (R265, R266). No cause, address or vector register exists (R264). -/
def takeError (e : Err) (s : State) : State :=
  if downgraded s.params e then { s with out := { s.out with error := some e } }
  else { s with out := { s.out with error := some e }, halted := some e }

/-- Hands out a drawn byte as read data. -/
def drawReadData (s : State) : State :=
  { s with out := { s.out with data := some (Config.benignByte s.draws) }, draws := s.draws + 1 }

/-- Taking an error of a read: the CPU sees a draw where the error is downgraded (R266). -/
def takeReadError (e : Err) (s : State) : State :=
  if downgraded s.params e then drawReadData (takeError e s) else takeError e s

/-! ## Running an operation -/

/-- An operation starts with nothing handed out (R10). -/
def beginOp (s : State) : State := { s with out := Output.empty }

/-- Every operation of a halted block has no step; any other starts with its outputs empty (R10, R265). -/
def operation (s : State) (body : State → Host.Outcome State Fault Refusal) : Host.Outcome State Fault Refusal :=
  match s.halted with
  | some e => .fault (.halted e)
  | none => body (beginOp s)

/-- Ends an operation that returns no data. -/
def settleWrite : Res Unit → Host.Outcome State Fault Refusal
  | .done _ s => .next s
  | .raised e s => .next (takeError e s)
  | .refused r => .refused r

/-- Ends an operation that returns a byte. -/
def settleRead : Res Byte → Host.Outcome State Fault Refusal
  | .done b s => .next { s with out := { s.out with data := some b } }
  | .raised e s => .next (takeReadError e s)
  | .refused r => .refused r

/-- Runs an operation that returns no data. -/
def runWrite (f : State → Res Unit) (s : State) : Host.Outcome State Fault Refusal :=
  operation s (fun s => settleWrite (f s))

/-- Runs an operation that returns a byte. -/
def runRead (f : State → Res Byte) (s : State) : Host.Outcome State Fault Refusal :=
  operation s (fun s => settleRead (f s))

/-! ## Construction (R290) -/

/-- The state that construction from a CHR blob builds: every field of R42 at its reset value, the blob in pattern
memory from address 0, zero after it. `G.diagCount`, the parameters, the platform's regions and the operations
still to come are not part of the block that is built (R31, R41). -/
def constructed (chr : List Byte) (s : State) : State :=
  { State.fresh s.params s.regions s.diagCount s.draws with
    pat := Memory.load [] 0 chr
    inbox := s.inbox }

/-- `CONSTRUCT(chr)`: the only reset, and the only way out of a fatal error (R265, R290). -/
def construct (chr : List Byte) (s : State) : Host.Outcome State Fault Refusal :=
  if chrFits chr then .next (constructed chr s) else .refused .chrTooLarge

end Sys2Proof.Machine
end

