-- ==== Sys2Proof/Machine/Operands.lean ====
section
/-! DEFINITION. The values assembled from several bytes or fields (R107): the video address and its increment, the DMA
source address, the renderer's addresses, columns and palette offsets. -/

namespace Sys2Proof.Machine

/-! ## Address port, data port, DMA port -/

/-- `((hi << 8) | lo) & 0x3FFF` (R147). -/
def videoAddress (hi lo : Byte) : VidAddr := (hi ++ lo).setWidth 14

/-- `inc(S)`: 32 where control bit 2 is set, else 1 (R150). -/
def increment (ctrl : Byte) : VidAddr := if ctrl.getLsbD 2 then 32 else 1

/-- The video address after a completed data-port access, modulo 2^14 (R150). -/
def nextVaddr (s : State) : VidAddr := s.vaddr + increment s.ctrl

/-- The source address `(p << 8) + i` of byte `i` of a DMA page (R240). -/
def dmaSource (page : Byte) (i : Nat) : SysAddr := BitVec.ofNat 16 (page.toNat * 256 + i)

/-! ## Columns and name tables (R181, R182) -/

/-- The scrolled column `c = px + scrollX`, a natural in `0..510` (R181). -/
def scrolledColumn (s : State) (px : Nat) : Nat := px + s.scrollX.toNat

/-- The name table of a scrolled column: `t = (c >> 8) XOR ctrl[0]` (R182). -/
def tableOf (s : State) (c : Nat) : Nat := (c / 256) ^^^ (s.ctrl.getLsbD 0).toNat

/-- The video base of name table `t` (R182). -/
def tableBase (t : Nat) : Nat := 0x2000 + 0x400 * t

/-! ## Tile and attribute addresses (R183) -/

/-- The grid position of the tile at a row and column (R183). -/
def tileIndex (row col : Nat) : Nat := (row / 8) * 32 + col / 8

/-- The attribute-byte index at a row and column (R183). -/
def attrIndex (row col : Nat) : Nat := (row / 32) * 8 + col / 32

/-- The video address of a tile number (R183). -/
def tileAddr (t row col : Nat) : VidAddr := BitVec.ofNat 14 (tableBase t + tileIndex row col)

/-- The video address of an attribute byte (R183). -/
def attrAddr (t row col : Nat) : VidAddr := BitVec.ofNat 14 (tableBase t + 0x3C0 + attrIndex row col)

/-- The quadrant shift within an attribute byte (R185). -/
def quadrantShift (row col : Nat) : Nat := ((row / 16) % 2) * 4 + ((col / 16) % 2) * 2

/-- The palette group a quadrant selects (R185). -/
def paletteGroup (attr : Byte) (row col : Nat) : BitVec 2 := (attr >>> quadrantShift row col).setWidth 2

/-! ## Pattern addresses (R184, R186, R213) -/

/-- The background pattern base, by control bit 4 (R184). -/
def bgBase (s : State) : Nat := if s.ctrl.getLsbD 4 then 0x1000 else 0x0000

/-- The sprite pattern base, by control bit 3 (R213). -/
def sprBase (s : State) : Nat := if s.ctrl.getLsbD 3 then 0x1000 else 0x0000

/-- The video address of the low plane of a tile row (R186, R213). -/
def lowPlaneAddr (base : Nat) (tile : Byte) (r : Nat) : VidAddr := BitVec.ofNat 14 (base + tile.toNat * 16 + r)

/-- The video address of the high plane of a tile row (R186, R213). -/
def highPlaneAddr (base : Nat) (tile : Byte) (r : Nat) : VidAddr := BitVec.ofNat 14 (base + tile.toNat * 16 + r + 8)

/-! ## Colour indices and palette offsets (R187, R215) -/

/-- The 2-bit colour index of bit `b` of two planes: `(hi[b] << 1) | lo[b]` (R187, R191). -/
def colourIndex (lo hi : Byte) (b : Nat) : BitVec 2 := BitVec.ofBool (hi.getLsbD b) ++ BitVec.ofBool (lo.getLsbD b)

/-- The background palette offset: 0 for colour index 0, else `(grp << 2) | ci` (R187). -/
def bgPaletteOffset (ci grp : BitVec 2) : BitVec 5 := if ci = 0 then 0 else 0#1 ++ grp ++ ci

/-- The sprite palette offset `0x10 + (a[1:0] << 2) + ci` (R215). -/
def sprPaletteOffset (ci : BitVec 2) (attributes : Byte) : BitVec 5 := 1#1 ++ attributes.setWidth 2 ++ ci

/-- The pixel word of a palette offset: `RGB[PalRead(off) & 0x3F]` (R77, R188). -/
def colourWord (off : BitVec 5) (s : State) : Pixel := s.params.rgb.get ((palRead off s).setWidth 6).toFin

end Sys2Proof.Machine
end

