-- ==== Sys2Proof/Machine/Flags.lean ====
section
/-! DEFINITION. The status flags: the status byte, the diagnostic bit, and what sets and clears them (R24, R25, R31). -/

namespace Sys2Proof.Machine

/-- `(vblank << 7) | (s0hit << 6)` (R25). -/
def statusByte (s : State) : Byte := BitVec.ofBool s.vblank ++ BitVec.ofBool s.s0hit ++ 0#6

/-- The diagnostic bit, alternating with the parity of the access counter (R31). -/
def diagBit (s : State) : Byte :=
  match s.params.diag with
  | .omit => 0x00
  | .alternate mask phase0 => if (decide (s.diagCount % 2 = 1) ^^ phase0) then mask else 0x00

/-- The value a status read returns, before its side effects (R25, R143). -/
def statusValue (s : State) : Byte := statusByte s ||| diagBit s

/-- The side effects of a status read: it counts, clears `vblank` and resets the toggle; `s0hit` stays (R143). -/
def acknowledgeStatus (s : State) : State :=
  { s with diagCount := s.diagCount + 1, vblank := false, w := false }

/-- The end of frame sets `vblank` and clears `s0hit` (R123). -/
def frameEndFlags (s : State) : State := { s with vblank := true, s0hit := false }

/-- The timer reaching line 20 clears `vblank` and leaves `s0hit` (R125). -/
def endVblank (s : State) : State := { s with vblank := false }

/-- Whether the end-of-frame interrupt is enabled: control bit 7 (R22, R124). -/
def nmiEnabled (s : State) : Bool := s.ctrl.getLsbD 7

end Sys2Proof.Machine
end

