-- ==== Sys2Proof/Machine/Ports.lean ====
section
/-! DEFINITION. The register window (41_register_ports.md): the operations of its eight ports, their dispatch by offset
and direction (R142), and the meanings of the instructions that reach a port directly. -/

namespace Sys2Proof.Machine

/-! ## The operations of the ports -/

/-- `WR_CTRL d` (R140). -/
def wrCtrl (d : Byte) (s : State) : Res Unit := .done () { s with ctrl := d }

/-- `WR_MASK d` (R141). -/
def wrMask (d : Byte) (s : State) : Res Unit := .done () { s with mask := d }

/-- `WR_OAMADDR d`: accepted, no effect (R151). -/
def wrOamaddr (_d : Byte) (s : State) : Res Unit := .done () s

/-- `WR_OAMDATA d`: accepted, no effect (R152). -/
def wrOamdata (_d : Byte) (s : State) : Res Unit := .done () s

/-- `WR_SCROLL d`: X in phase 0, Y in phase 1, then the toggle is inverted (R145). -/
def wrScroll (d : Byte) (s : State) : Res Unit :=
  if s.w then .done () { s with scrollY := d, w := false }
  else .done () { s with scrollX := d, addrHiValid := false, w := true }

/-- `WR_ADDR d`: the high byte in phase 0 (R146), the low byte in phase 1 (R147). -/
def wrAddr (d : Byte) (s : State) : Res Unit :=
  if s.w then
    if s.addrHiValid then .done () { s with vaddr := videoAddress s.addrHi d, vaddrKnown := true, w := false }
    else .done () { s with vaddrKnown := false, w := false }
  else .done () { s with addrHi := d, addrHiValid := true, vaddrKnown := false, w := true }

/-- `WR_DATA d`: a video write, then the increment (R148, R150). -/
def wrData (d : Byte) (s : State) : Res Unit :=
  if s.vaddrKnown then
    match videoWrite s.vaddr d s with
    | .done _ t => .done () { t with vaddr := nextVaddr s }
    | .raised e t => .raised e t
    | .refused r => .refused r
  else .refused .unsettledAddress

/-- `RD_STATUS` (R143). -/
def rdStatus (s : State) : Res Byte := .done (statusValue s) (acknowledgeStatus s)

/-- `RD_DATA`: returns the latch and refills it, then the increment (R144, R150, R157). -/
def rdData (s : State) : Res Byte :=
  if s.vaddrKnown then
    match videoRead s.vaddr s with
    | .done b t => .done s.readBuf { t with readBuf := b, vaddr := nextVaddr s }
    | .raised e t => .raised e t
    | .refused r => .refused r
  else .refused .unsettledAddress

/-- A port accessed in a direction it does not have (R153, R262). -/
def portViolation {α : Type} (p : WindowPort) (dir : Dir) (s : State) : Res α :=
  .raised (.protocolViolation (.window p) dir) s

/-! ## Dispatch by offset (R103, R142) -/

/-- A read of the window at an offset; an offset past 7 is out of the target's range (R61). -/
def windowRead (off : Nat) (s : State) : Res Byte :=
  if off < 8 then
    match WindowPort.ofOffset (BitVec.ofNat 3 off) with
    | .status => rdStatus s
    | .data => rdData s
    | p => portViolation p .read s
  else .refused .regionOutOfRange

/-- A write of the window at an offset. -/
def windowWrite (off : Nat) (d : Byte) (s : State) : Res Unit :=
  if off < 8 then
    match WindowPort.ofOffset (BitVec.ofNat 3 off) with
    | .control => wrCtrl d s
    | .mask => wrMask d s
    | .oamAddr => wrOamaddr d s
    | .oamData => wrOamdata d s
    | .scroll => wrScroll d s
    | .address => wrAddr d s
    | .data => wrData d s
    | .status => portViolation .status .write s
  else .refused .regionOutOfRange

/-! ## Meanings -/

/-- `WR_CTRL d` (R140). -/
def execWrCtrl (d : Byte) (s : State) : Host.Outcome State Fault Refusal := runWrite (wrCtrl d) s

/-- `WR_MASK d` (R141). -/
def execWrMask (d : Byte) (s : State) : Host.Outcome State Fault Refusal := runWrite (wrMask d) s

/-- `WR_STATUS d` raises `ProtocolViolation(2, W)`; the data is discarded (R153). -/
def execWrStatus (_d : Byte) (s : State) : Host.Outcome State Fault Refusal :=
  runWrite (portViolation .status .write) s

/-- `WR_OAMADDR d` (R151). -/
def execWrOamaddr (d : Byte) (s : State) : Host.Outcome State Fault Refusal := runWrite (wrOamaddr d) s

/-- `WR_OAMDATA d` (R152). -/
def execWrOamdata (d : Byte) (s : State) : Host.Outcome State Fault Refusal := runWrite (wrOamdata d) s

/-- `WR_SCROLL d` (R145). -/
def execWrScroll (d : Byte) (s : State) : Host.Outcome State Fault Refusal := runWrite (wrScroll d) s

/-- `WR_ADDR d` (R146, R147). -/
def execWrAddr (d : Byte) (s : State) : Host.Outcome State Fault Refusal := runWrite (wrAddr d) s

/-- `WR_DATA d` (R148). -/
def execWrData (d : Byte) (s : State) : Host.Outcome State Fault Refusal := runWrite (wrData d) s

/-- `RD_CTRL` raises `ProtocolViolation(0, R)` (R153). -/
def execRdCtrl (s : State) : Host.Outcome State Fault Refusal := runRead (portViolation .control .read) s

/-- `RD_MASK` raises `ProtocolViolation(1, R)` (R153). -/
def execRdMask (s : State) : Host.Outcome State Fault Refusal := runRead (portViolation .mask .read) s

/-- `RD_STATUS` (R143). -/
def execRdStatus (s : State) : Host.Outcome State Fault Refusal := runRead rdStatus s

/-- `RD_OAMADDR` raises `ProtocolViolation(3, R)` (R153). -/
def execRdOamaddr (s : State) : Host.Outcome State Fault Refusal := runRead (portViolation .oamAddr .read) s

/-- `RD_OAMDATA` raises `ProtocolViolation(4, R)` (R153). -/
def execRdOamdata (s : State) : Host.Outcome State Fault Refusal := runRead (portViolation .oamData .read) s

/-- `RD_SCROLL` raises `ProtocolViolation(5, R)` (R153). -/
def execRdScroll (s : State) : Host.Outcome State Fault Refusal := runRead (portViolation .scroll .read) s

/-- `RD_ADDR` raises `ProtocolViolation(6, R)` (R153). -/
def execRdAddr (s : State) : Host.Outcome State Fault Refusal := runRead (portViolation .address .read) s

/-- `RD_DATA` (R144). -/
def execRdData (s : State) : Host.Outcome State Fault Refusal := runRead rdData s

end Sys2Proof.Machine
end

