-- ==== Sys2Proof/Machine/Bus.lean ====
section
/-! DEFINITION. The system bus and the DMA port (44_dma_and_bus.md): routing to the targets of a handler (R65, R66, R80),
the DMA copy (R240 to R247), and the meanings of `WR_DMA`, `RD_DMA`, `BUS_RD` and `BUS_WR`. -/

namespace Sys2Proof.Machine

/-! ## Reads -/

/-- A read of the DMA port: the port is write-only (R243). An offset past 0 is out of the target's range (R61). -/
def dmaPortRead (off : Nat) (s : State) : Res Byte :=
  if off < 1 then .raised (.protocolViolation .dma .read) s else .refused .regionOutOfRange

/-- A read of a device outside the block: a free answer (R62, R244; log entry 11). -/
def deviceRead (id off : Nat) (s : State) : Res Byte :=
  match Config.deviceRead id off s.draws with
  | .byte b => .done b { s with draws := s.draws + 1 }
  | .raises e => .raised e { s with draws := s.draws + 1 }

/-- The read capability of a target (R62, R65). -/
def targetRead (t : Target) (off : Nat) (s : State) : Res Byte :=
  match t with
  | .mem m =>
    match memRead m off s with
    | .ok b => .done b s
    | .error r => .refused r
  | .window => windowRead off s
  | .dmaPort => dmaPortRead off s
  | .device id => deviceRead id off s

/-- `MemRead.S(a, 1)`: a read on the system bus (R65, R80). -/
def sysRead (a : SysAddr) (s : State) : Res Byte :=
  match findHandler (sysMap s.params) a with
  | none => .raised (.unmappedAddress a) s
  | some h => targetRead h.target (handlerOffset h a) s

/-! ## The DMA copy -/

/-- `MemWrite.O(i, 1, b)`: a write on the DMA destination dispatcher (R241). -/
def dmaStore (i : Nat) (b : Byte) (s : State) : Res Unit :=
  busMemWrite dmaTargetWrite dmaMap (BitVec.ofNat 16 i) b s

/-- Copies `n` bytes of a page in ascending order, from byte `i` on. A source read that raises stops the copy there and
keeps the bytes before it (R240, R242). -/
def dmaCopy (page : Byte) : Nat → Nat → State → Res Unit
  | 0, _, s => .done () s
  | n + 1, i, s =>
    match sysRead (dmaSource page i) s with
    | .raised e t => .raised e t
    | .refused r => .refused r
    | .done b t =>
      match dmaStore i b t with
      | .raised e u => .raised e u
      | .refused r => .refused r
      | .done _ u => dmaCopy page n (i + 1) u

/-- `WR_DMA p`: the whole copy, always into `Oam[0..255]`, within the one operation (R240, R246). -/
def wrDma (page : Byte) (s : State) : Res Unit := dmaCopy page Config.dmaLength 0 s

/-! ## Writes -/

/-- A write of the DMA port (R240). -/
def dmaPortWrite (off : Nat) (page : Byte) (s : State) : Res Unit :=
  if off < 1 then wrDma page s else .refused .regionOutOfRange

/-- A write of a device outside the block: it completes or raises, freely (R62, R245; log entry 11). -/
def deviceWrite (id off : Nat) (d : Byte) (s : State) : Res Unit :=
  match Config.deviceWrite id off d s.draws with
  | none => .done () { s with draws := s.draws + 1 }
  | some e => .raised e { s with draws := s.draws + 1 }

/-- The write capability of a target (R62, R66). -/
def targetWrite (t : Target) (off : Nat) (d : Byte) (s : State) : Res Unit :=
  match t with
  | .mem m =>
    match memWrite m off d s with
    | .ok t => .done () t
    | .error r => .refused r
  | .window => windowWrite off d s
  | .dmaPort => dmaPortWrite off d s
  | .device id => deviceWrite id off d s

/-- `MemWrite.S(a, 1, d)`: a write on the system bus (R66, R80). -/
def sysWrite (a : SysAddr) (d : Byte) (s : State) : Res Unit :=
  match findHandler (sysMap s.params) a with
  | none => .raised (.unmappedAddress a) s
  | some h => targetWrite h.target (handlerOffset h a) d s

/-! ## Meanings -/

/-- `WR_DMA p` (R240). -/
def execWrDma (page : Byte) (s : State) : Host.Outcome State Fault Refusal := runWrite (wrDma page) s

/-- `RD_DMA` raises `ProtocolViolation(DMA, R)` (R243). -/
def execRdDma (s : State) : Host.Outcome State Fault Refusal := runRead (dmaPortRead 0) s

/-- `BUS_WR a, d` (R245). -/
def execBusWr (a : SysAddr) (d : Byte) (s : State) : Host.Outcome State Fault Refusal := runWrite (sysWrite a d) s

/-- `BUS_RD a` (R244). -/
def execBusRd (a : SysAddr) (s : State) : Host.Outcome State Fault Refusal := runRead (sysRead a) s

end Sys2Proof.Machine
end

