-- ==== Sys2Proof/Machine/Render.lean ====
section
/-! DEFINITION. The two rendering passes that `TICK` runs at the end of a line: the background (42_background.md) and the
sprites (43_sprites.md). -/

namespace Sys2Proof.Machine

/-- A renderer's read on the video bus. Every address the two passes form is mapped (R131, `Laws.Render`); the free
value stands where R131 says no fetch is. -/
def fetch (a : VidAddr) (s : State) : Byte :=
  match videoRead a s with
  | .done b _ => b
  | .raised _ _ => Config.unmappedFetch a
  | .refused _ => Config.unmappedFetch a

/-- Writes the words of a frame row (R188, R216). -/
def setFrameRow (r : Nat) (row : Row) (s : State) : State := { s with fb := s.fb.setRow r row }

/-! ## Background (R180 to R188) -/

/-- The tile number at a row and column of a name table (R183). -/
def tileNumber (s : State) (t row col : Nat) : Byte := fetch (tileAddr t row col) s

/-- The palette group at a row and column of a name table (R183, R185). -/
def bgGroup (s : State) (t row col : Nat) : BitVec 2 := paletteGroup (fetch (attrAddr t row col) s) row col

/-- The colour index of a background pixel; its leftmost pixel is bit 7 (R186, R187). -/
def bgColourIndex (s : State) (t row col : Nat) : BitVec 2 :=
  colourIndex (fetch (lowPlaneAddr (bgBase s) (tileNumber s t row col) (row % 8)) s)
    (fetch (highPlaneAddr (bgBase s) (tileNumber s t row col) (row % 8)) s) (7 - col % 8)

/-- The palette offset of the background at frame row `row`, pixel `px` (R180 to R187). -/
def bgOffset (s : State) (row px : Nat) : BitVec 5 :=
  let t := tableOf s (scrolledColumn s px)
  let col := scrolledColumn s px % 256
  bgPaletteOffset (bgColourIndex s t row col) (bgGroup s t row col)

/-- The 256 words the background pass writes to a frame row (R180, R188). -/
def backgroundRow (s : State) (row : Nat) : Row := Vector.ofFn (fun px => colourWord (bgOffset s row px) s)

/-- `backgroundPass(L)`: lines below 20 are skipped (R180). -/
def backgroundPass (l : Nat) (s : State) : State :=
  if l < Config.firstVisibleLine then s
  else setFrameRow (l - Config.firstVisibleLine) (backgroundRow s (l - Config.firstVisibleLine)) s

/-! ## Sprites (R210 to R217) -/

/-- The four bytes of sprite entry `n` (R38). -/
def spriteY (s : State) (n : Nat) : Nat := (s.oam.read (4 * n)).toNat
def spriteTile (s : State) (n : Nat) : Byte := s.oam.read (4 * n + 1)
def spriteAttr (s : State) (n : Nat) : Byte := s.oam.read (4 * n + 2)
def spriteX (s : State) (n : Nat) : Nat := (s.oam.read (4 * n + 3)).toNat

/-- `y ≤ line < y + 8`, in naturals (R211). -/
def inRange (y line : Nat) : Bool := y ≤ line && line < y + 8

/-- The row within the sprite, turned over by flip-vertical, attribute bit 7 (R212). -/
def spriteRow (y line : Nat) (attributes : Byte) : Nat :=
  if attributes.getLsbD 7 then 7 - (line - y) else line - y

/-- The plane bit of pixel `i`, turned over unless flip-horizontal, attribute bit 6, is set (R214). -/
def spriteBit (attributes : Byte) (i : Nat) : Nat := if attributes.getLsbD 6 then i else 7 - i

/-- The colour index of pixel `i` of sprite entry `n` on frame row `line` (R212 to R214). -/
def spriteColourIndex (s : State) (n line i : Nat) : BitVec 2 :=
  let r := spriteRow (spriteY s n) line (spriteAttr s n)
  colourIndex (fetch (lowPlaneAddr (sprBase s) (spriteTile s n) r) s)
    (fetch (highPlaneAddr (sprBase s) (spriteTile s n) r) s) (spriteBit (spriteAttr s n) i)

/-- Draws pixel `i` of entry `n`: dropped past column 255, transparent for colour index 0, else it overwrites
(R214 to R216). -/
def drawSpritePixel (s : State) (line n : Nat) (row : Row) (i : Nat) : Row :=
  if h : spriteX s n + i < 256 then
    if spriteColourIndex s n line i = 0 then row
    else row.set (spriteX s n + i)
      (colourWord (sprPaletteOffset (spriteColourIndex s n line i) (spriteAttr s n)) s) h
  else row

/-- Draws entry `n` where it lies on the frame row (R210, R211). -/
def drawSprite (s : State) (line : Nat) (row : Row) (n : Nat) : Row :=
  if inRange (spriteY s n) line then (List.range 8).foldl (drawSpritePixel s line n) row else row

/-- Draws the 64 entries in ascending order over a frame row; later ones overwrite (R210, R217). -/
def spriteRowOver (s : State) (line : Nat) (row : Row) : Row :=
  (List.range Config.spriteEntries).foldl (drawSprite s line) row

/-- `spritePass(L)`: lines below 20 are skipped (R210). A row the background pass has not written would be left
alone; `renderLine` always writes it first. -/
def spritePass (l : Nat) (s : State) : State :=
  if l < Config.firstVisibleLine then s
  else
    match s.fb.row? (l - Config.firstVisibleLine) with
    | some row => setFrameRow (l - Config.firstVisibleLine) (spriteRowOver s (l - Config.firstVisibleLine) row) s
    | none => s

/-- `renderLine(L)`: the background pass, then the sprite pass (R121). -/
def renderLine (l : Nat) (s : State) : State := spritePass l (backgroundPass l s)

end Sys2Proof.Machine
end

