-- ==== Sys2Proof/Machine/Tick.lean ====
section
/-! DEFINITION. The tick (40_tick_timing.md): the scanline timer, the end of a line, the end of a frame, and the meaning
of `TICK`. -/

namespace Sys2Proof.Machine

/-- Hands out one more event. -/
def emit (e : Event) (s : State) : State := { s with out := { s.out with events := s.out.events ++ [e] } }

/-- `endOfFrame()`: presents the frame, sets the flags, restarts the line count, and last signals the interrupt where it
is enabled (R123, R124). -/
def endOfFrame (s : State) : State :=
  let t := { frameEndFlags (emit (.present s.fb) s) with scanLine := 0 }
  if nmiEnabled t then emit .nmi t else t

/-- The end of a line: it is rendered, the timer moves to the next line, and the frame end and the line-20 check follow,
both on the advanced line number (R120). -/
def endOfLine (s : State) : State :=
  let r := renderLine s.scanLine s
  let t := { r with tickCounter := 0, scanLine := r.scanLine + 1 }
  let u := if t.scanLine = Config.linesPerFrame then endOfFrame t else t
  if u.scanLine = Config.vblankEndLine then endVblank u else u

/-- One step of the scanline timer (R120). -/
def tick (s : State) : State :=
  if s.tickCounter + 1 = Config.ticksPerLine then endOfLine s
  else { s with tickCounter := s.tickCounter + 1 }

/-- `TICK` (R120): refused from inside the `Nmi` callback (R129); it raises no error (R131). -/
def execTick (s : State) : Host.Outcome State Fault Refusal :=
  operation s (fun s => if s.inCallback then .refused .reentrantTick else .next (tick s))

end Sys2Proof.Machine
end

