-- ==== Sys2Proof/Machine/Dispatch.lean ====
section
/-! DEFINITION. One arm per operation of the block (R104, R105). -/

namespace Sys2Proof.Machine

def exec (i : Instr) (s : State) : Host.Outcome State Fault Refusal :=
  match i with
  | .tick => Sys2Proof.Machine.execTick s
  | .wrCtrl d => Sys2Proof.Machine.execWrCtrl d s
  | .wrMask d => Sys2Proof.Machine.execWrMask d s
  | .wrStatus d => Sys2Proof.Machine.execWrStatus d s
  | .wrOamaddr d => Sys2Proof.Machine.execWrOamaddr d s
  | .wrOamdata d => Sys2Proof.Machine.execWrOamdata d s
  | .wrScroll d => Sys2Proof.Machine.execWrScroll d s
  | .wrAddr d => Sys2Proof.Machine.execWrAddr d s
  | .wrData d => Sys2Proof.Machine.execWrData d s
  | .rdCtrl => Sys2Proof.Machine.execRdCtrl s
  | .rdMask => Sys2Proof.Machine.execRdMask s
  | .rdStatus => Sys2Proof.Machine.execRdStatus s
  | .rdOamaddr => Sys2Proof.Machine.execRdOamaddr s
  | .rdOamdata => Sys2Proof.Machine.execRdOamdata s
  | .rdScroll => Sys2Proof.Machine.execRdScroll s
  | .rdAddr => Sys2Proof.Machine.execRdAddr s
  | .rdData => Sys2Proof.Machine.execRdData s
  | .wrDma page => Sys2Proof.Machine.execWrDma page s
  | .rdDma => Sys2Proof.Machine.execRdDma s
  | .busWr a d => Sys2Proof.Machine.execBusWr a d s
  | .busRd a => Sys2Proof.Machine.execBusRd a s

end Sys2Proof.Machine
end

