-- ==== Sys2Proof/Machine/Fetch.lean ====
section
/-! DEFINITION. Taking the next input of the host (R84, R100): the block has no program counter and fetches no
instructions (R21), so what stands for a fetch is the head of the stream of operations. -/

namespace Sys2Proof.Machine

/-- What the next input asks for, with the state that has taken it off the stream. -/
inductive Next where
  | idle
  | instr (i : Instr) (s : State)
  | reserved (s : State)
  | construct (chr : List Byte) (s : State)
deriving Repr

/-- The request of a transaction word, issued from inside the `Nmi` callback or not (R109, R129). -/
def request (w : OpWord) (nested : Bool) (s : State) : Next :=
  match decode w with
  | some i => .instr i { s with inCallback := nested }
  | none => .reserved { s with inCallback := nested }

/-- Takes the next input off the stream. -/
def nextInput (s : State) : Next :=
  match s.inbox with
  | [] => .idle
  | .op w :: rest => request w false { s with inbox := rest }
  | .nested w :: rest => request w true { s with inbox := rest }
  | .construct chr :: rest => .construct chr { s with inbox := rest }

/-- A reserved word spells no operation: no step where the block is halted, else refused (R109, R267). -/
def refuseReserved (s : State) : Host.Outcome State Fault Refusal :=
  operation s (fun _ => .refused .reservedEncoding)

/-- Places a transaction word at the head of the stream. -/
def issue (w : OpWord) (s : State) : State := { s with inbox := .op w :: s.inbox }

end Sys2Proof.Machine
end

