-- ==== Sys2Proof/Machine/Step.lean ====
section
/-! DEFINITION. One step of the machine: the next input of the host, taken to its end (R4, R84). -/

namespace Sys2Proof.Machine

/-- One step. With no input waiting, all state survives unchanged (R277). -/
def step (s : State) : Host.Outcome State Fault Refusal :=
  match nextInput s with
  | .idle => .next s
  | .instr i t => exec i t
  | .reserved t => refuseReserved t
  | .construct chr t => construct chr t

/-- `s` with the operation whose bits are `w`, in the opcode table's numbering, as the next input. A number that is no
word of its format leaves the stream as it is (as `decodeTableWord` answers `none` for it). -/
def State.withFetchWord (s : State) (nbits w : Nat) : State :=
  match tableWord nbits w with
  | some word => issue word s
  | none => s

end Sys2Proof.Machine
end

