-- ==== Sys2Proof/Assembly.lean ====
section
/-! DEFINITION. The spec's own assembly spelling of an operation (R111) and its pseudo-operations (R112). Neither is
hardware: they are notation for sequences of operations. -/

namespace Sys2Proof

/-- `n` hexadecimal digits of a number. -/
def hexDigits (n v : Nat) : String :=
  String.ofList ((List.range n).reverse.map (fun i => ("0123456789ABCDEF".toList.getD (v / 16 ^ i % 16) '0')))

/-- A mnemonic with a byte operand. -/
def asmByte (mnemonic : String) (d : Byte) : String := mnemonic ++ " 0x" ++ hexDigits 2 d.toNat

/-- The assembly spelling of an operation (R111). -/
def Instr.asm : Instr → String
  | .tick => "TICK"
  | .wrCtrl d => asmByte "WR_CTRL" d
  | .wrMask d => asmByte "WR_MASK" d
  | .wrStatus d => asmByte "WR_STATUS" d
  | .wrOamaddr d => asmByte "WR_OAMADDR" d
  | .wrOamdata d => asmByte "WR_OAMDATA" d
  | .wrScroll d => asmByte "WR_SCROLL" d
  | .wrAddr d => asmByte "WR_ADDR" d
  | .wrData d => asmByte "WR_DATA" d
  | .rdCtrl => "RD_CTRL"
  | .rdMask => "RD_MASK"
  | .rdStatus => "RD_STATUS"
  | .rdOamaddr => "RD_OAMADDR"
  | .rdOamdata => "RD_OAMDATA"
  | .rdScroll => "RD_SCROLL"
  | .rdAddr => "RD_ADDR"
  | .rdData => "RD_DATA"
  | .wrDma page => asmByte "WR_DMA" page
  | .rdDma => "RD_DMA"
  | .busWr a d => "BUS_WR 0x" ++ hexDigits 4 a.toNat ++ ", 0x" ++ hexDigits 2 d.toNat
  | .busRd a => "BUS_RD 0x" ++ hexDigits 4 a.toNat

/-- The pseudo-operations (R112). -/
inductive Pseudo where
  | ticks (n : Nat)
  | line
  | frame
  | sync
  | setAddr (a : SysAddr)
  | setScroll (x y : Byte)
  | vpoke (a : SysAddr) (v : Byte)
deriving DecidableEq, Repr

/-- The sequence a pseudo-operation expands to (R112). -/
def Pseudo.expand : Pseudo → List Instr
  | .ticks n => List.replicate n .tick
  | .line => List.replicate 341 .tick
  | .frame => List.replicate 88660 .tick
  | .sync => [.rdStatus]
  | .setAddr a => [.wrAddr (a.extractLsb' 8 8), .wrAddr (a.extractLsb' 0 8)]
  | .setScroll x y => [.wrScroll x, .wrScroll y]
  | .vpoke a v => [.wrAddr (a.extractLsb' 8 8), .wrAddr (a.extractLsb' 0 8), .wrData v]

end Sys2Proof
end

