-- ==== Sys2Proof/Reference.lean ====
section
/-! DEFINITION. The rules of the memories and of the two rendering passes once more, over flat memories and natural
numbers, for the statements: nothing here goes through a dispatcher or a bit vector. The machine does not use
these definitions; statements say that it agrees with them. -/

namespace Sys2Proof.Reference

open Sys2Proof.Machine

/-- The value listed at a cell, or zero. -/
def cell (m : Memory) (a : Nat) : Nat := ((m.lookup a).getD 0).toNat

/-- Bit `b` of a number. -/
def bit (v b : Nat) : Nat := v / 2 ^ b % 2

/-- The palette cell of an offset: the four mirrored offsets fall on the cell 0x10 below (R75). -/
def palCell (o : Nat) : Nat := if o = 0x10 ∨ o = 0x14 ∨ o = 0x18 ∨ o = 0x1C then o - 0x10 else o

/-- The video address of the cell an address reaches: itself, but for the palette mirrors (R75). -/
def videoCell (a : Nat) : Nat := if 0x3F00 ≤ a then 0x3F00 + palCell (a - 0x3F00) else a

/-- The video addresses some handler covers (R70, R73). -/
def videoMapped (a : Nat) : Bool := a < 0x2800 || (0x3F00 ≤ a && a < 0x3F20)

/-- The byte at a mapped video address (R70). -/
def videoByte (s : State) (a : Nat) : Nat :=
  if a < 0x2000 then cell s.pat a
  else if a < 0x2400 then cell s.nt0 (a - 0x2000)
  else if a < 0x2800 then cell s.nt1 (a - 0x2400)
  else cell s.pal (palCell (a - 0x3F00))

/-- The value of control bit `b`. -/
def ctrlBit (s : State) (b : Nat) : Nat := bit s.ctrl.toNat b

/-- The address increment (R150). -/
def inc (s : State) : Nat := if ctrlBit s 2 = 1 then 32 else 1

/-- `(hi[b] << 1) | lo[b]` for the planes of row `r` of a tile in the pattern table at `base` (R186, R187, R213). -/
def planes (s : State) (base tile r b : Nat) : Nat :=
  2 * bit (cell s.pat (base + tile * 16 + r + 8)) b + bit (cell s.pat (base + tile * 16 + r)) b

/-- The name table and the column within it of pixel `px` (R181, R182). -/
def bgTable (s : State) (px : Nat) : Nat := ((px + s.scrollX.toNat) / 256 + ctrlBit s 0) % 2
def bgCol (s : State) (px : Nat) : Nat := (px + s.scrollX.toNat) % 256

/-- A byte of name table `t` (R36). -/
def nameByte (s : State) (t o : Nat) : Nat := if t = 0 then cell s.nt0 o else cell s.nt1 o

/-- The colour index of the background at frame row `row`, pixel `px` (R183, R184, R186, R187). -/
def bgIndex (s : State) (row px : Nat) : Nat :=
  planes s (0x1000 * ctrlBit s 4)
    (nameByte s (bgTable s px) (row / 8 * 32 + bgCol s px / 8)) (row % 8) (7 - bgCol s px % 8)

/-- The palette group of the background (R183, R185). -/
def bgGroup (s : State) (row px : Nat) : Nat :=
  nameByte s (bgTable s px) (0x3C0 + (row / 32 * 8 + bgCol s px / 32))
    / 2 ^ (row / 16 % 2 * 4 + bgCol s px / 16 % 2 * 2) % 4

/-- The palette offset of the background (R187). -/
def bgOffset (s : State) (row px : Nat) : Nat :=
  if bgIndex s row px = 0 then 0 else 4 * bgGroup s row px + bgIndex s row px

/-- The pixel word of a palette offset: entry `pal[off] & 0x3F` of the RGB table (R77, R188). -/
def word (s : State) (off : Nat) : Pixel := s.params.rgb.toList.getD (cell s.pal (palCell off) % 64) 0

/-- Byte `k` of sprite entry `n` (R38). -/
def oamByte (s : State) (n k : Nat) : Nat := cell s.oam (4 * n + k)

/-- Whether entry `n` reaches column `px` of frame row `line` (R211, R214). -/
def sprCovers (s : State) (n line px : Nat) : Bool :=
  oamByte s n 0 ≤ line && line < oamByte s n 0 + 8 && oamByte s n 3 ≤ px && px < oamByte s n 3 + 8

/-- The row of entry `n`'s tile that frame row `line` shows (R212). -/
def sprRow (s : State) (n line : Nat) : Nat :=
  if bit (oamByte s n 2) 7 = 1 then 7 - (line - oamByte s n 0) else line - oamByte s n 0

/-- The plane bit of entry `n` that column `px` shows (R214). -/
def sprBit (s : State) (n px : Nat) : Nat :=
  if bit (oamByte s n 2) 6 = 1 then px - oamByte s n 3 else 7 - (px - oamByte s n 3)

/-- The colour index entry `n` shows at column `px` of frame row `line`; 0, transparent, where it does not reach. -/
def sprIndex (s : State) (n line px : Nat) : Nat :=
  if sprCovers s n line px then
    planes s (0x1000 * ctrlBit s 3) (oamByte s n 1) (sprRow s n line) (sprBit s n px)
  else 0

/-- The palette offset of an opaque pixel of entry `n` (R215). -/
def sprOffset (s : State) (n line px : Nat) : Nat := 0x10 + 4 * (oamByte s n 2 % 4) + sprIndex s n line px

end Sys2Proof.Reference
end

