-- ==== Sys2Proof/Safety.lean ====
section
/-! DEFINITION. What claims are stated in: the invariant of the machine, and running a sequence of operations with the
events it emits. A run is safe while the block holds no fatal error (R265). -/

namespace Sys2Proof.Machine

/-- The block holds no fatal error, so it has a step (R265). -/
abbrev State.running (s : State) : Prop := s.halted = none

/-- A memory of `n` bytes in canonical form. -/
abbrev Memory.ok (m : Memory) (n : Nat) : Prop := m.wf ∧ m.below n

/-- The palette offsets that the mirror normalisation never reaches (R37, R75). -/
def mirroredOffset (o : Nat) : Bool := o == 0x10 || o == 0x14 || o == 0x18 || o == 0x1C

/-- The frame's rows are in strictly rising order, and each is a row of the 240-row frame (R39). -/
abbrev Frame.ok (f : Frame) : Prop :=
  f.rows.Pairwise (fun a b => a.1 < b.1) ∧ ∀ e ∈ f.rows, e.1 < Config.frameRows

/-- The timer holds one of its states (R34). -/
abbrev State.timerOk (s : State) : Prop :=
  s.tickCounter < Config.ticksPerLine ∧ s.scanLine < Config.linesPerFrame

/-- The invariant of the machine: it holds at reset and every step keeps it. -/
structure State.Inv (s : State) : Prop where
  /-- the timer is in `0..340` and `0..259` between operations (R34) -/
  timer : s.timerOk
  /-- the block's memories are canonical and have the sizes of R35 to R38 -/
  pat : s.pat.ok Config.patternSize
  nt0 : s.nt0.ok Config.nameTableSize
  nt1 : s.nt1.ok Config.nameTableSize
  pal : s.pal.ok Config.paletteSize
  oam : s.oam.ok Config.spriteSize
  /-- the four mirrored palette cells are never written (R37) -/
  palLive : ∀ c ∈ s.pal, mirroredOffset c.1 = false
  /-- the platform's regions are canonical and hold nothing past their size (R60) -/
  regions : ∀ r ∈ s.regions, Memory.ok r.bytes r.size
  /-- the frame is canonical -/
  frame : s.fb.ok
  /-- every visible line already passed has rendered its row since construction (R127) -/
  rendered : ∀ r, r + Config.firstVisibleLine < s.scanLine → (s.fb.row? r).isSome = true
  /-- sprite-0 hit is never set (R218) -/
  s0hit : s.s0hit = false
  /-- between the two address writes the address is unsettled (R29) -/
  toggle : s.w = true → s.addrHiValid = true → s.vaddrKnown = false

/-- Runs operations one after another, as the host issues them, and collects the events they emit in order. `none` where
one of them has no step or no meaning. -/
def run : List Instr → State → Option (State × List Event)
  | [], s => some (s, [])
  | i :: is, s =>
    match exec i s with
    | .next t =>
      match run is t with
      | some (u, es) => some (u, t.out.events ++ es)
      | none => none
    | .fault _ => none
    | .refused _ => none

end Sys2Proof.Machine
end

