-- ==== Sys2Proof/Certificates/Slice0/Obligations.lean ====
section
/-! DEFINITION. The statements for the provers. Each docstring names the rules of the spec it formalises. -/

open Sys2Proof Sys2Proof.Machine

/-! ## Encoding -/

/-- R104, R105, R107: decoding the word of an operation gives the operation back, with every operand at every value. -/
def Obligations.DecodeOfEncode : Prop :=
  ∀ i : Instr, decode (encode i) = some i

/-- R106: every word has at most one meaning, and a word that decodes is the word of what it decodes to. -/
def Obligations.EncodeOfDecode : Prop :=
  ∀ (w : OpWord) (i : Instr), decode w = some i → encode i = w

/-- R106, R109: exactly the reserved words spell no operation. The last clause for `PPU16` (a word of class `00` other
than `0x0000`) is the model's reading, log entry 5. -/
def Obligations.ReservedWordsDecodeToNothing : Prop :=
  (∀ w : BitVec 16, decode (.ppu16 w) = none ↔
    (w.extractLsb' 14 2 = 3#2 ∨ w.extractLsb' 11 2 ≠ 0#2 ∨
      (w.extractLsb' 13 1 = 1#1 ∧ w.extractLsb' 0 8 ≠ 0#8) ∨
      (w.extractLsb' 14 2 = 2#2 ∧ w.extractLsb' 8 3 ≠ 0#3) ∨
      (w.extractLsb' 14 2 = 0#2 ∧ w ≠ 0x0000#16))) ∧
  (∀ w : BitVec 25, decode (.bus25 w) = none ↔ (w.extractLsb' 24 1 = 1#1 ∧ w.extractLsb' 0 8 ≠ 0#8))

/-- The words of 95_test_vectors.md L2-E decode as the table there says. -/
def Obligations.SampleWordsDecode : Prop :=
  decodeTableWord 16 0x0000 = some .tick ∧ decodeTableWord 16 0x4080 = some (.wrCtrl 0x80) ∧
  decodeTableWord 16 0x46FF = some (.wrAddr 0xFF) ∧ decodeTableWord 16 0x6200 = some .rdStatus ∧
  decodeTableWord 16 0x6700 = some .rdData ∧ decodeTableWord 16 0x6000 = some .rdCtrl ∧
  decodeTableWord 16 0x4255 = some (.wrStatus 0x55) ∧ decodeTableWord 16 0x8002 = some (.wrDma 0x02) ∧
  decodeTableWord 16 0xA000 = some .rdDma ∧ decodeTableWord 16 0x6201 = none ∧ decodeTableWord 16 0x0001 = none ∧
  decodeTableWord 16 0x4880 = none ∧ decodeTableWord 16 0xC000 = none ∧ decodeTableWord 16 0x8102 = none ∧
  decodeTableWord 16 0xA100 = none ∧ decodeTableWord 32 0x1200200 = some (.busRd 0x2002) ∧
  decodeTableWord 32 0x020063F = some (.busWr 0x2006 0x3F) ∧ decodeTableWord 32 0x1200201 = none

/-! ## The step -/

/-- R84, R100: a step takes the next transaction word off the stream and runs the operation it decodes to; the rest of
the stream is left for later steps. The stream as the place the operations come from is the model's form (log entry
1), and so is the mark `inCallback` that a word issued from inside the `Nmi` callback sets and any other clears (log
entry 13; R129 speaks of no mark). -/
def Obligations.StepRunsTheDecodedOperation : Prop :=
  ∀ (s : State) (w : OpWord) (rest : List Input) (i : Instr), decode w = some i →
    (s.inbox = .op w :: rest → step s = exec i { s with inbox := rest, inCallback := false }) ∧
    (s.inbox = .nested w :: rest → step s = exec i { s with inbox := rest, inCallback := true })

/-- R84, R109, R267, R277: with no input waiting nothing changes; a reserved word is refused where the block is not
halted and has no step where it is. The idle step is the model's form, log entry 1. -/
def Obligations.StepOnNoInputOrReservedWord : Prop :=
  ∀ s : State,
    (s.inbox = [] → step s = .next s) ∧
    (∀ (w : OpWord) (rest : List Input), decode w = none → s.inbox = .op w :: rest ∨ s.inbox = .nested w :: rest →
      (s.halted = none → step s = .refused .reservedEncoding) ∧
      ∀ e, s.halted = some e → step s = .fault (.halted e))

/-- R290, R265: a construction builds the state of R42 from the blob in any state, halted or not, and refuses a blob
longer than pattern memory. `diagCount` is kept, as R31 says of a later instance. The model's own choices: that a
construction is an input of the stream (log entry 1), that every one of them keeps `diagCount` and the stream (log
entry 14), and that it keeps the platform's regions (log entry 9). -/
def Obligations.StepConstructsTheBlock : Prop :=
  ∀ (s : State) (chr : List Byte) (rest : List Input), s.inbox = .construct chr :: rest →
    (8192 < chr.length → step s = .refused .chrTooLarge) ∧
    (chr.length ≤ 8192 → ∃ t, step s = .next t ∧
      t.tickCounter = 0 ∧ t.scanLine = 0 ∧ t.vblank = false ∧ t.s0hit = false ∧ t.w = false ∧ t.readBuf = 0x00 ∧
      t.ctrl = 0x00 ∧ t.mask = 0x00 ∧ t.scrollX = 0x00 ∧ t.scrollY = 0x00 ∧ t.vaddrKnown = false ∧
      t.addrHi = 0x00 ∧ t.addrHiValid = false ∧
      (∀ a, t.pat.read a = chr.getD a 0x00) ∧ (∀ a, t.nt0.read a = 0x00) ∧ (∀ a, t.nt1.read a = 0x00) ∧
      (∀ a, t.pal.read a = 0x00) ∧ (∀ a, t.oam.read a = 0x00) ∧ t.halted = none ∧ t.diagCount = s.diagCount ∧
      t.params = s.params ∧ t.regions = s.regions ∧ t.inbox = rest)

/-- R42: the state right after the session's first construction, here from an empty blob and on the platform map of
95_test_vectors.md (the model's choices, log entries 8, 9, 10). The last clause, an empty stream, is no part of R42: it
is the model's own (log entry 19). -/
def Obligations.ResetState : Prop :=
  State.reset.tickCounter = 0 ∧ State.reset.scanLine = 0 ∧ State.reset.vblank = false ∧ State.reset.s0hit = false ∧
  State.reset.w = false ∧ State.reset.readBuf = 0x00 ∧ State.reset.ctrl = 0x00 ∧ State.reset.mask = 0x00 ∧
  State.reset.scrollX = 0x00 ∧ State.reset.scrollY = 0x00 ∧ State.reset.vaddrKnown = false ∧
  State.reset.addrHi = 0x00 ∧ State.reset.addrHiValid = false ∧ State.reset.pat = [] ∧ State.reset.nt0 = [] ∧
  State.reset.nt1 = [] ∧ State.reset.pal = [] ∧ State.reset.oam = [] ∧ State.reset.halted = none ∧
  State.reset.diagCount = 0 ∧ State.reset.inbox = []

/-! ## Invariants and whole-machine rules -/

/-- The invariant holds at reset. -/
def Obligations.ResetMeetsTheInvariant : Prop := State.reset.Inv

/-- R29, R34, R35 to R39, R60, R127, R218: every step keeps the invariant, from every state that meets it. -/
def Obligations.StepKeepsTheInvariant : Prop :=
  ∀ s t : State, s.Inv → step s = .next t → t.Inv

/-- R265: once the block holds a fatal error, no operation has a step. -/
def Obligations.HaltedBlockHasNoStep : Prop :=
  ∀ (i : Instr) (s : State) (e : Err), s.halted = some e → exec i s = .fault (.halted e)

/-- R40, R41, R265: no step changes a parameter; only a construction clears a fatal error. -/
def Obligations.StepKeepsParametersAndFatalError : Prop :=
  ∀ s t : State, step s = .next t →
    t.params = s.params ∧
    ∀ e, s.halted = some e → t.halted = some e ∨ ∃ chr rest, s.inbox = .construct chr :: rest

/-- R21 (its write half), R39, R123, R124, R24, R218: no operation but `TICK` changes the timer, the frame or the sprite-0
hit flag, and none emits an event. -/
def Obligations.OnlyTickAdvancesTheTimer : Prop :=
  ∀ (i : Instr) (s t : State), i ≠ .tick → exec i s = .next t →
    t.tickCounter = s.tickCounter ∧ t.scanLine = s.scanLine ∧ t.fb = s.fb ∧ t.s0hit = s.s0hit ∧ t.out.events = []

/-- R124: `Nmi` is emitted by the tick that ends a frame with control bit 7 set, and by no other operation. -/
def Obligations.NmiOnlyAtTheFrameEnd : Prop :=
  ∀ (i : Instr) (s t : State), exec i s = .next t →
    (Event.nmi ∈ t.out.events ↔
      i = .tick ∧ s.tickCounter = 340 ∧ s.scanLine = 259 ∧ s.ctrl.getLsbD 7 = true)

/-- R264: an operation that is not the DMA copy, and that the bus does not route to it, leaves the block as it was when
it raises: only the error handed out, the fatal-error record and the draws it took differ (errors as next states and
the draws are the model's form, log entries 4 and 6). -/
def Obligations.RaisingChangesNoState : Prop :=
  ∀ (i : Instr) (s t : State) (e : Err), (∀ p, i ≠ .wrDma p) →
    (∀ a d h, i = .busWr a d → findHandler (sysMap s.params) a = some h → h.target ≠ .dmaPort) →
    exec i s = .next t → t.out.error = some e →
    ∃ o h n, t = { s with out := o, halted := h, draws := n }

/-- R61, R76: where the platform's handlers reach no further than their targets, no operation is refused for an offset
out of range. -/
def Obligations.NoOffsetIsOutOfRange : Prop :=
  ∀ (i : Instr) (s : State), sysHandlersFit (s.regions.map (·.size)) s.params.sysHandlers = true →
    exec i s ≠ .refused .regionOutOfRange

/-! ## The tick and the timer -/

/-- R120, R123, R124, R125: the three courses of `TICK` outside the `Nmi` callback, from every state. -/
def Obligations.TickCourses : Prop :=
  ∀ s : State, s.halted = none → s.inCallback = false →
    (s.tickCounter ≠ 340 →
      exec .tick s = .next { s with tickCounter := s.tickCounter + 1, out := ⟨none, none, []⟩ }) ∧
    (s.tickCounter = 340 → s.scanLine ≠ 259 →
      exec .tick s = .next { s with
        fb := (renderLine s.scanLine s).fb, tickCounter := 0, scanLine := s.scanLine + 1
        vblank := if s.scanLine + 1 = 20 then false else s.vblank, out := ⟨none, none, []⟩ }) ∧
    (s.tickCounter = 340 → s.scanLine = 259 →
      exec .tick s = .next { s with
        fb := (renderLine 259 s).fb, tickCounter := 0, scanLine := 0, vblank := true, s0hit := false
        out := ⟨none, none, .present (renderLine 259 s).fb :: if s.ctrl.getLsbD 7 then [.nmi] else []⟩ })

/-- R129: a `TICK` issued from inside the `Nmi` callback is refused. That an operation is issued from there is the
host's word, log entry 13. -/
def Obligations.ReentrantTickIsRefused : Prop :=
  ∀ s : State, s.halted = none → s.inCallback = true → exec .tick s = .refused .reentrantTick

/-- R126: from the start of a line, 341 ticks render that line once and leave the start of the next line. -/
def Obligations.LineOf341Ticks : Prop :=
  ∀ s : State, s.halted = none → s.inCallback = false → s.tickCounter = 0 → s.scanLine < 259 →
    run (List.replicate 341 .tick) s =
      some ({ s with fb := (renderLine s.scanLine s).fb, scanLine := s.scanLine + 1
                     vblank := if s.scanLine + 1 = 20 then false else s.vblank, out := ⟨none, none, []⟩ }, [])

/-- R126, R127, R128: from `(0, 0)`, 88660 ticks leave `(0, 0)` with `vblank` set and emit exactly one `Present` and
then exactly one `Nmi` where control bit 7 is set, none otherwise; every row of the presented frame is written. -/
def Obligations.FrameOf88660Ticks : Prop :=
  ∀ s : State, s.halted = none → s.inCallback = false → s.tickCounter = 0 → s.scanLine = 0 →
    ∃ t f, run (List.replicate 88660 .tick) s =
        some (t, .present f :: if s.ctrl.getLsbD 7 then [.nmi] else []) ∧
      t.tickCounter = 0 ∧ t.scanLine = 0 ∧ t.vblank = true ∧ t.s0hit = false ∧ t.fb = f ∧
      ∀ r, r < 240 → ∃ row, f.row? r = some row ∧ row = spriteRowOver s r (backgroundRow s r)

/-- R127: a frame is presented only with every one of its 240 rows written since construction. -/
def Obligations.PresentedFrameIsComplete : Prop :=
  ∀ (s t : State) (f : Frame), s.Inv → step s = .next t → s.inbox ≠ [] → .present f ∈ t.out.events →
    ∀ r, r < 240 → (f.row? r).isSome = true

/-! ## Rendering -/

/-- R121, R180, R189, R210, R220: rendering a line writes the row of a visible line and nothing else; a line below 20
renders nothing. -/
def Obligations.RenderingWritesOneRow : Prop :=
  ∀ (s : State) (l : Nat),
    (l < 20 → renderLine l s = s) ∧
    (20 ≤ l → ∃ f, renderLine l s = { s with fb := f } ∧
      f.row? (l - 20) = some (spriteRowOver s (l - 20) (backgroundRow s (l - 20))) ∧
      ∀ r, r ≠ l - 20 → f.row? r = s.fb.row? r)

/-- R180 to R188, R191, R192: every pixel of a background row is the palette lookup that the rules compute, over flat
memories and natural numbers. -/
def Obligations.BackgroundPixel : Prop :=
  ∀ (s : State) (row : Nat) (px : Fin 256), row < 240 →
    (backgroundRow s row)[px] = Reference.word s (Reference.bgOffset s row px)

/-- R210 to R217: over a row, the highest-numbered sprite entry with an opaque pixel at a column shows there, whatever
its priority bit; where no entry is opaque the row keeps its word. -/
def Obligations.SpritePixel : Prop :=
  ∀ (s : State) (line : Nat) (row : Row) (px : Fin 256), line < 240 →
    (∀ n, n < 64 → Reference.sprIndex s n line px ≠ 0 →
      (∀ m, n < m → m < 64 → Reference.sprIndex s m line px = 0) →
      (spriteRowOver s line row)[px] = Reference.word s (Reference.sprOffset s n line px)) ∧
    ((∀ n, n < 64 → Reference.sprIndex s n line px = 0) → (spriteRowOver s line row)[px] = row[px])

/-- R131: every video address the two passes form is one some handler of the video bus covers. -/
def Obligations.RendererAddressesAreMapped : Prop :=
  (∀ s : State, ∀ t row col, t < 2 → row < 240 → col < 256 →
    (∃ b, videoRead (tileAddr t row col) s = .done b s) ∧ (∃ b, videoRead (attrAddr t row col) s = .done b s)) ∧
  (∀ s : State, ∀ base tile r, base = 0x0000 ∨ base = 0x1000 → r < 8 →
    (∃ b, videoRead (lowPlaneAddr base tile r) s = .done b s) ∧
    (∃ b, videoRead (highPlaneAddr base tile r) s = .done b s))

/-- R189, R190: the background depends on the line, `scrollX`, control bits 0 and 4, the name tables, pattern memory, the
palette and the RGB table alone. -/
def Obligations.BackgroundDependsOnlyOn : Prop :=
  ∀ (s t : State) (row : Nat), s.scrollX = t.scrollX → s.ctrl.getLsbD 0 = t.ctrl.getLsbD 0 →
    s.ctrl.getLsbD 4 = t.ctrl.getLsbD 4 → s.nt0 = t.nt0 → s.nt1 = t.nt1 → s.pat = t.pat → s.pal = t.pal →
    s.params.rgb = t.params.rgb → row < 240 → backgroundRow s row = backgroundRow t row

/-- R220: the sprites depend on the line, sprite memory, control bit 3, pattern memory, the palette, the RGB table and
the row they are drawn over alone. -/
def Obligations.SpritesDependOnlyOn : Prop :=
  ∀ (s t : State) (line : Nat) (row : Row), s.oam = t.oam → s.ctrl.getLsbD 3 = t.ctrl.getLsbD 3 →
    s.pat = t.pat → s.pal = t.pal → s.params.rgb = t.params.rgb → line < 240 →
    spriteRowOver s line row = spriteRowOver t line row

/-! ## The register window -/

/-- R140: a control write stores the byte, whatever it is, and nothing else. -/
def Obligations.ControlWriteStoresTheByte : Prop :=
  ∀ (d : Byte) (s : State), s.halted = none →
    encode (.wrCtrl d) = .ppu16 (0b01000000#8 ++ d) ∧
    exec (.wrCtrl d) s = .next { s with ctrl := d, out := ⟨none, none, []⟩ }

/-- R23, R141: a mask write stores the byte and nothing else, and rendering is the same whatever the mask holds. -/
def Obligations.MaskWriteHasNoEffectOnRendering : Prop :=
  ∀ (d : Byte) (s : State), s.halted = none →
    encode (.wrMask d) = .ppu16 (0b01000001#8 ++ d) ∧
    exec (.wrMask d) s = .next { s with mask := d, out := ⟨none, none, []⟩ } ∧
    ∀ l, l < 260 → renderLine l { s with mask := d } = { renderLine l s with mask := d }

/-- R151, R152: writes to the OAM ports are accepted and change nothing; sprite memory stays as it is. -/
def Obligations.OamPortWritesChangeNothing : Prop :=
  ∀ (d : Byte) (s : State), s.halted = none →
    encode (.wrOamaddr d) = .ppu16 (0b01000011#8 ++ d) ∧ encode (.wrOamdata d) = .ppu16 (0b01000100#8 ++ d) ∧
    exec (.wrOamaddr d) s = .next { s with out := ⟨none, none, []⟩ } ∧
    exec (.wrOamdata d) s = .next { s with out := ⟨none, none, []⟩ }

/-- R25, R143: a status read returns the status byte with the diagnostic bit as they stood before it, counts, and clears
`vblank` and the toggle; `s0hit`, the address and the scroll registers stay. -/
def Obligations.StatusRead : Prop :=
  ∀ s : State, s.halted = none →
    encode .rdStatus = .ppu16 0x6200#16 ∧
    exec .rdStatus s = .next { s with
      diagCount := s.diagCount + 1, vblank := false, w := false
      out := ⟨some ((if s.vblank then 0x80#8 else 0x00#8) ||| (if s.s0hit then 0x40#8 else 0x00#8) |||
        (match s.params.diag with
          | .omit => 0x00#8
          | .alternate mask phase0 =>
            if (s.diagCount % 2 = 1) ↔ phase0 = false then mask else 0x00#8)), none, []⟩ }

/-- R145: a scroll write stores X in phase 0 and Y in phase 1, and inverts the toggle. -/
def Obligations.ScrollWrite : Prop :=
  ∀ (d : Byte) (s : State), s.halted = none →
    encode (.wrScroll d) = .ppu16 (0b01000101#8 ++ d) ∧
    (s.w = false → exec (.wrScroll d) s =
      .next { s with scrollX := d, addrHiValid := false, w := true, out := ⟨none, none, []⟩ }) ∧
    (s.w = true → exec (.wrScroll d) s = .next { s with scrollY := d, w := false, out := ⟨none, none, []⟩ })

/-- R146, R147: an address write stores the high byte in phase 0, and in phase 1 completes the 14-bit address where the
pair began with an address write; otherwise the address stays unsettled. Right after the first write of a pair the data port
refuses every access. -/
def Obligations.AddressWrite : Prop :=
  ∀ (d : Byte) (s : State), s.halted = none →
    encode (.wrAddr d) = .ppu16 (0b01000110#8 ++ d) ∧
    (s.w = false → exec (.wrAddr d) s =
      .next { s with addrHi := d, addrHiValid := true, vaddrKnown := false, w := true, out := ⟨none, none, []⟩ }) ∧
    (s.w = true → s.addrHiValid = true → exec (.wrAddr d) s =
      .next { s with vaddr := BitVec.ofNat 14 ((s.addrHi.toNat * 256 + d.toNat) % 0x4000), vaddrKnown := true
                     w := false, out := ⟨none, none, []⟩ }) ∧
    (s.w = true → s.addrHiValid = false → exec (.wrAddr d) s =
      .next { s with vaddrKnown := false, w := false, out := ⟨none, none, []⟩ }) ∧
    (s.w = false → ∀ t, exec (.wrAddr d) s = .next t →
      exec .rdData t = .refused .unsettledAddress ∧ ∀ e, exec (.wrData e) t = .refused .unsettledAddress)

/-- R144, R150, R157: a data read at a settled, mapped address returns the latch, refills it from the address, palette
addresses included, and increments the address modulo 2^14; nothing else changes. At an unsettled address it is
refused. -/
def Obligations.DataRead : Prop :=
  ∀ s : State, s.halted = none →
    encode .rdData = .ppu16 0x6700#16 ∧
    (s.vaddrKnown = false → exec .rdData s = .refused .unsettledAddress) ∧
    (s.vaddrKnown = true → Reference.videoMapped s.vaddr.toNat = true →
      exec .rdData s = .next { s with
        readBuf := BitVec.ofNat 8 (Reference.videoByte s s.vaddr.toNat)
        vaddr := BitVec.ofNat 14 ((s.vaddr.toNat + Reference.inc s) % 0x4000)
        out := ⟨some s.readBuf, none, []⟩ })

/-- R144, R148, R261, R264 to R266: a data-port access at a settled, unmapped address raises the error that carries
the address, and changes neither the latch nor the address. A fatal error is recorded; a downgraded one leaves the block
running, and then a read hands out a draw (the model's form of it, log entry 6). -/
def Obligations.DataAccessUnmapped : Prop :=
  ∀ (d : Byte) (s : State), s.halted = none → s.vaddrKnown = true → Reference.videoMapped s.vaddr.toNat = false →
    (s.params.benign.contains (s.vaddr.setWidth 16) = false →
      exec .rdData s = .next { s with halted := some (.unmappedAddress (s.vaddr.setWidth 16))
                                      out := ⟨none, some (.unmappedAddress (s.vaddr.setWidth 16)), []⟩ } ∧
      exec (.wrData d) s = .next { s with halted := some (.unmappedAddress (s.vaddr.setWidth 16))
                                          out := ⟨none, some (.unmappedAddress (s.vaddr.setWidth 16)), []⟩ }) ∧
    (s.params.benign.contains (s.vaddr.setWidth 16) = true →
      (∃ b, exec .rdData s = .next { s with draws := s.draws + 1
                                            out := ⟨some b, some (.unmappedAddress (s.vaddr.setWidth 16)), []⟩ }) ∧
      exec (.wrData d) s = .next { s with out := ⟨none, some (.unmappedAddress (s.vaddr.setWidth 16)), []⟩ })

/-- R72, R74, R75, R148, R150: a data write at a settled, mapped address changes exactly the one cell it addresses, a
palette mirror falling on its cell, and increments the address; the latch stays. It is refused at an unsettled
address, and in pattern memory where that is not writable. -/
def Obligations.DataWrite : Prop :=
  ∀ (d : Byte) (s : State), s.halted = none →
    encode (.wrData d) = .ppu16 (0b01000111#8 ++ d) ∧
    (s.vaddrKnown = false → exec (.wrData d) s = .refused .unsettledAddress) ∧
    (s.vaddrKnown = true → s.vaddr.toNat < 0x2000 → s.params.patternWritable = false →
      exec (.wrData d) s = .refused .patternWrite) ∧
    (s.vaddrKnown = true → Reference.videoMapped s.vaddr.toNat = true →
      (s.vaddr.toNat < 0x2000 → s.params.patternWritable = true) →
      ∃ p n0 n1 c, exec (.wrData d) s = .next { s with
          pat := p, nt0 := n0, nt1 := n1, pal := c
          vaddr := BitVec.ofNat 14 ((s.vaddr.toNat + Reference.inc s) % 0x4000), out := ⟨none, none, []⟩ } ∧
        ∀ a, Reference.videoMapped a = true →
          Reference.videoByte { s with pat := p, nt0 := n0, nt1 := n1, pal := c } a =
            if Reference.videoCell a = Reference.videoCell s.vaddr.toNat then d.toNat
            else Reference.videoByte s a)

/-- R153, R262, R265: the seven accesses to a port in a direction it does not have raise the protocol violation that
names the port and the direction; it is fatal whatever `BENIGN` holds, and nothing else changes. -/
def Obligations.PortViolations : Prop :=
  ∀ (d : Byte) (s : State), s.halted = none →
    ∀ i p dir w, (i, p, dir, w) ∈
      [(Instr.rdCtrl, WindowPort.control, Dir.read, 0x6000#16), (.rdMask, .mask, .read, 0x6100#16),
       (.rdOamaddr, .oamAddr, .read, 0x6300#16), (.rdOamdata, .oamData, .read, 0x6400#16),
       (.rdScroll, .scroll, .read, 0x6500#16), (.rdAddr, .address, .read, 0x6600#16),
       (.wrStatus d, .status, .write, 0x42#8 ++ d)] →
      encode i = .ppu16 w ∧
      exec i s = .next { s with halted := some (.protocolViolation (.window p) dir)
                                out := ⟨none, some (.protocolViolation (.window p) dir), []⟩ }

/-- R154: from toggle 0, after any sequence of scroll writes, address writes and status reads (`none`), the toggle is
the parity of the writes since the last status read, or of all of them where there is none; the data play no part. -/
def Obligations.ToggleLaw : Prop :=
  ∀ (s : State) (ops : List (Option (Bool × Byte))), s.halted = none → s.w = false →
    ∃ t es, run (ops.map fun
        | none => .rdStatus
        | some (true, d) => .wrScroll d
        | some (false, d) => .wrAddr d) s = some (t, es) ∧
      t.w = decide ((ops.reverse.takeWhile Option.isSome).length % 2 = 1)

/-- R155: from toggle 0, an address pair sets the 14-bit address and settles it, whatever the earlier state. -/
def Obligations.AddressLaw : Prop :=
  ∀ (s : State) (hi lo : Byte), s.halted = none → s.w = false →
    ∃ t es, run [.wrAddr hi, .wrAddr lo] s = some (t, es) ∧
      t.vaddr = BitVec.ofNat 14 ((hi.toNat * 256 + lo.toNat) % 0x4000) ∧ t.vaddrKnown = true

/-- R156: after the address is set to `A`, two data reads return the old latch and then the byte at `A`, provided `A`
and the address after it are mapped. -/
def Obligations.ReadAheadLaw : Prop :=
  ∀ (s : State) (hi lo : Byte) (a : Nat), s.halted = none → s.w = false →
    a = (hi.toNat * 256 + lo.toNat) % 0x4000 → Reference.videoMapped a = true →
    Reference.videoMapped ((a + Reference.inc s) % 0x4000) = true →
    ∃ t es u fs, run [.wrAddr hi, .wrAddr lo, .rdData] s = some (t, es) ∧ t.out.data = some s.readBuf ∧
      run [.wrAddr hi, .wrAddr lo, .rdData, .rdData] s = some (u, fs) ∧
      u.out.data = some (BitVec.ofNat 8 (Reference.videoByte s a))

/-! ## Dispatchers and memories -/

/-- R64: lookup answers the first handler in registration order that covers the address, in naturals without wrap;
it fails where none covers it, and a handler of size 0 covers nothing. -/
def Obligations.LookupIsFirstMatch : Prop :=
  ∀ (hs : List (Handler Target)) (a : SysAddr),
    (∀ h, findHandler hs a = some h ↔
      ∃ before after, hs = before ++ h :: after ∧
        (h.base.toNat ≤ a.toNat ∧ a.toNat < h.base.toNat + h.size.toNat) ∧
        ∀ g ∈ before, ¬ (g.base.toNat ≤ a.toNat ∧ a.toNat < g.base.toNat + g.size.toNat)) ∧
    (findHandler hs a = none ↔
      ∀ g ∈ hs, ¬ (g.base.toNat ≤ a.toNat ∧ a.toNat < g.base.toNat + g.size.toNat))

/-- R70, R73: a read on the video bus is a read of the flat map of the rule, or raises the address where no handler
covers it; it changes no state. -/
def Obligations.VideoBusReads : Prop :=
  ∀ (a : VidAddr) (s : State),
    (Reference.videoMapped a.toNat = true →
      videoRead a s = .done (BitVec.ofNat 8 (Reference.videoByte s a.toNat)) s) ∧
    (Reference.videoMapped a.toNat = false → videoRead a s = .raised (.unmappedAddress (a.setWidth 16)) s)

/-- R75: a palette read after a palette write gives the written byte at the written offset and at its mirror, and
leaves every other offset alone. -/
def Obligations.PaletteMirrors : Prop :=
  ∀ (o p : BitVec 5) (v : Byte) (s : State),
    palRead p (palWrite o v s) =
      if Reference.palCell p.toNat = Reference.palCell o.toNat then v else palRead p s

/-- R60, R74: a write of a memory cell keeps the canonical form, gives the written byte back and leaves every other
address alone. -/
def Obligations.MemoryCellLaws : Prop :=
  ∀ (m : Memory) (a : Nat) (v : Byte), (m.wf → (m.write a v).wf) ∧
    (m.write a v).read a = v ∧ ∀ b, b ≠ a → (m.write a v).read b = m.read b

/-! ## The system bus and the DMA port -/

/-- R80, R102, R142, R244, R245: a bus access in the register window is the operation of the port at that offset, and
one at the DMA port outside the window is the DMA operation. -/
def Obligations.BusRoutesToPorts : Prop :=
  ∀ (a : SysAddr) (d : Byte) (s : State),
    (∀ off : BitVec 3, a.toNat = s.params.ppuBase.toNat + off.toNat →
      exec (.busRd a) s = exec (windowReadInstr (.ofOffset off)) s ∧
      exec (.busWr a d) s = exec (windowWriteInstr (.ofOffset off) d) s) ∧
    (a = s.params.dmaPort →
      ¬ (s.params.ppuBase.toNat ≤ a.toNat ∧ a.toNat < s.params.ppuBase.toNat + 8) →
      exec (.busRd a) s = exec .rdDma s ∧ exec (.busWr a d) s = exec (.wrDma d) s)

/-- R65, R66, R244, R245, R261, R266: a bus access that no handler covers raises the address as the dispatcher saw it
and changes no state; a fatal error is recorded, a downgraded one leaves the block running, and a read then hands out
a draw (the model's form of it, log entry 6). -/
def Obligations.BusAccessUnmapped : Prop :=
  ∀ (a : SysAddr) (d : Byte) (s : State), s.halted = none → findHandler (sysMap s.params) a = none →
    (s.params.benign.contains a = false →
      exec (.busRd a) s = .next { s with halted := some (.unmappedAddress a)
                                         out := ⟨none, some (.unmappedAddress a), []⟩ } ∧
      exec (.busWr a d) s = .next { s with halted := some (.unmappedAddress a)
                                           out := ⟨none, some (.unmappedAddress a), []⟩ }) ∧
    (s.params.benign.contains a = true →
      (∃ b, exec (.busRd a) s = .next { s with draws := s.draws + 1
                                               out := ⟨some b, some (.unmappedAddress a), []⟩ }) ∧
      exec (.busWr a d) s = .next { s with out := ⟨none, some (.unmappedAddress a), []⟩ })

/-- R60, R65, R66, R67, R244, R245: a bus access to a region of the platform reads or writes the one byte at the
address relative to the handler's base; a write into a ROM region is refused. -/
def Obligations.BusReachesPlatformRegions : Prop :=
  ∀ (a : SysAddr) (d : Byte) (s : State) (h : Handler Target) (id : Nat) (r : Region), s.halted = none →
    findHandler (sysMap s.params) a = some h → h.target = .mem (.platform id) → s.regions[id]? = some r →
    a.toNat - h.base.toNat < r.size →
    exec (.busRd a) s = .next { s with out := ⟨some (r.bytes.read (a.toNat - h.base.toNat)), none, []⟩ } ∧
    (r.kind = .ram → exec (.busWr a d) s = .next { s with
      regions := s.regions.set id { r with bytes := r.bytes.write (a.toNat - h.base.toNat) d }
      out := ⟨none, none, []⟩ }) ∧
    (r.kind = .rom → exec (.busWr a d) s = .refused .romWrite)

/-- R62, R67, R244, R245: a bus access to any memory that a handler names, the block's video memories among them, is the
one byte access of that memory; an access to a device outside the block completes or raises, freely, and changes nothing
of the block but its draws. The model's choices: the device case (log entry 11), `PATTERN_WRITABLE` on a write that
reaches pattern memory this way (log entry 16), and which of the block's memories a handler of the system bus can name:
all but sprite memory (log entry 20). -/
def Obligations.BusReachesMemoriesAndDevices : Prop :=
  ∀ (a : SysAddr) (d : Byte) (s : State) (h : Handler Target), s.halted = none →
    findHandler (sysMap s.params) a = some h →
    (∀ m b, h.target = .mem m → memRead m (a.toNat - h.base.toNat) s = .ok b →
      exec (.busRd a) s = .next { s with out := ⟨some b, none, []⟩ }) ∧
    (∀ m t, h.target = .mem m → memWrite m (a.toNat - h.base.toNat) d s = .ok t →
      exec (.busWr a d) s = .next { t with out := ⟨none, none, []⟩ }) ∧
    (∀ id, h.target = .device id →
      (∃ o e n, exec (.busRd a) s = .next { s with out := o, halted := e, draws := n }) ∧
      (∃ o e n, exec (.busWr a d) s = .next { s with out := o, halted := e, draws := n }))

/-- R240, R241, R246: where every byte of the page lies in a memory, the DMA copies the page into all of
sprite memory in order and changes nothing else. -/
def Obligations.DmaCopiesThePage : Prop :=
  ∀ (p : Byte) (s : State) (src : Nat → Byte), s.halted = none →
    (∀ k, k < 256 → ∃ h m, findHandler (sysMap s.params) (BitVec.ofNat 16 (p.toNat * 256 + k)) = some h ∧
      h.target = .mem m ∧ memRead m (p.toNat * 256 + k - h.base.toNat) s = .ok (src k)) →
    ∃ m, exec (.wrDma p) s = .next { s with oam := m, out := ⟨none, none, []⟩ } ∧
      (∀ k, k < 256 → m.read k = src k) ∧ ∀ a, 256 ≤ a → m.read a = s.oam.read a

/-- R242, R261, R265, R266: where byte `k` of the page is the first that no handler covers, the bytes before it are
copied, sprite memory from `k` on is unchanged, and the error carries the address of byte `k`. -/
def Obligations.DmaStopsAtTheFirstUnmappedByte : Prop :=
  ∀ (p : Byte) (s : State) (src : Nat → Byte) (k : Nat) (e : Err), s.halted = none → k < 256 →
    (∀ j, j < k → ∃ h m, findHandler (sysMap s.params) (BitVec.ofNat 16 (p.toNat * 256 + j)) = some h ∧
      h.target = .mem m ∧ memRead m (p.toNat * 256 + j - h.base.toNat) s = .ok (src j)) →
    findHandler (sysMap s.params) (BitVec.ofNat 16 (p.toNat * 256 + k)) = none →
    e = .unmappedAddress (BitVec.ofNat 16 (p.toNat * 256 + k)) →
    ∃ m, exec (.wrDma p) s = .next { s with
        oam := m, out := ⟨none, some e, []⟩
        halted := if s.params.benign.contains (BitVec.ofNat 16 (p.toNat * 256 + k)) then none else some e } ∧
      (∀ j, j < k → m.read j = src j) ∧ ∀ a, k ≤ a → m.read a = s.oam.read a

/-- R247: a page that begins with the register window reads port 0 first, which raises the protocol violation before
any byte is copied. -/
def Obligations.DmaOfTheWindowPageRaises : Prop :=
  ∀ (p : Byte) (s : State), s.halted = none → s.params.ppuBase.toNat = p.toNat * 256 →
    exec (.wrDma p) s = .next { s with halted := some (.protocolViolation (.window .control) .read)
                                       out := ⟨none, some (.protocolViolation (.window .control) .read), []⟩ }

/-- R243: a read of the DMA port, by its own word or over the bus, raises the protocol violation that names it; it is
fatal and nothing else changes. -/
def Obligations.DmaPortReadIsAViolation : Prop :=
  ∀ s : State, s.halted = none →
    encode .rdDma = .ppu16 0xA000#16 ∧
    exec .rdDma s = .next { s with halted := some (.protocolViolation .dma .read)
                                   out := ⟨none, some (.protocolViolation .dma .read), []⟩ } ∧
    (¬ (s.params.ppuBase.toNat ≤ s.params.dmaPort.toNat ∧ s.params.dmaPort.toNat < s.params.ppuBase.toNat + 8) →
      exec (.busRd s.params.dmaPort) s = exec .rdDma s)

/-- R240, R247: whatever a page covers, a DMA that ends in a next state leaves the timer, the frame, the control, mask
and scroll registers, the video memories, the parameters, the regions and the stream as they were; only sprite
memory, the fatal-error record, and what a read of the status or data port changes may differ. That a read of a device
changes nothing here is the model's choice (log entry 11): R247 gives a source read every side effect of its target. -/
def Obligations.DmaFrame : Prop :=
  ∀ (p : Byte) (s t : State), exec (.wrDma p) s = .next t →
    t.ctrl = s.ctrl ∧ t.mask = s.mask ∧ t.scrollX = s.scrollX ∧ t.scrollY = s.scrollY ∧ t.addrHi = s.addrHi ∧
    t.addrHiValid = s.addrHiValid ∧ t.vaddrKnown = s.vaddrKnown ∧ t.s0hit = s.s0hit ∧
    t.tickCounter = s.tickCounter ∧ t.scanLine = s.scanLine ∧ t.pat = s.pat ∧ t.nt0 = s.nt0 ∧ t.nt1 = s.nt1 ∧
    t.pal = s.pal ∧ t.fb = s.fb ∧ t.params = s.params ∧ t.regions = s.regions ∧ t.inbox = s.inbox ∧
    t.inCallback = s.inCallback ∧ ∀ a, 256 ≤ a → t.oam.read a = s.oam.read a

/-! ## Sprite memory -/

/-- R38, R78, R152: only the DMA port writes sprite memory: an operation that changes it is the DMA operation, or a bus
write that reaches the DMA port. That a device outside the block does not reach back into it is the model's choice (log
entry 11). -/
def Obligations.OnlyTheDmaPortWritesSpriteMemory : Prop :=
  ∀ (i : Instr) (s t : State), exec i s = .next t →
    t.oam = s.oam ∨ (∃ p, i = .wrDma p) ∨
      ∃ a p h, i = .busWr a p ∧ findHandler (sysMap s.params) a = some h ∧ h.target = .dmaPort

/-- The part of R38 and R78 that concerns the operations other than `TICK`: with other contents in sprite memory, every
such operation ends the same way, in a state that differs in sprite memory at most. That inside `TICK` the background
pass reads none of it is `BackgroundDependsOnlyOn`. That the answers of a device outside the block do not depend on it is
the model's choice (log entry 11), and that no handler of the system bus names it the model's reading (log entry 20). -/
def Obligations.NoOperationButTickDependsOnSpriteMemory : Prop :=
  ∀ (i : Instr) (s : State) (m : Memory), i ≠ .tick →
    (∀ t, exec i s = .next t → ∃ o, exec i { s with oam := m } = .next { t with oam := o }) ∧
    (∀ f, exec i s = .fault f → exec i { s with oam := m } = .fault f) ∧
    (∀ r, exec i s = .refused r → exec i { s with oam := m } = .refused r)
end

