-- ==== Sys2Proof/Laws/State.lean ====
section
/-! SUPPORT. One lemma per field per named update of the state, so that no proof unfolds a record update. -/

namespace Sys2Proof.Machine

/-! ## beginOp -/

@[simp] theorem beginOp_ctrl (s : State) : (beginOp s).ctrl = s.ctrl := rfl
@[simp] theorem beginOp_mask (s : State) : (beginOp s).mask = s.mask := rfl
@[simp] theorem beginOp_vblank (s : State) : (beginOp s).vblank = s.vblank := rfl
@[simp] theorem beginOp_s0hit (s : State) : (beginOp s).s0hit = s.s0hit := rfl
@[simp] theorem beginOp_vaddr (s : State) : (beginOp s).vaddr = s.vaddr := rfl
@[simp] theorem beginOp_w (s : State) : (beginOp s).w = s.w := rfl
@[simp] theorem beginOp_addrHi (s : State) : (beginOp s).addrHi = s.addrHi := rfl
@[simp] theorem beginOp_addrHiValid (s : State) : (beginOp s).addrHiValid = s.addrHiValid := rfl
@[simp] theorem beginOp_vaddrKnown (s : State) : (beginOp s).vaddrKnown = s.vaddrKnown := rfl
@[simp] theorem beginOp_readBuf (s : State) : (beginOp s).readBuf = s.readBuf := rfl
@[simp] theorem beginOp_scrollX (s : State) : (beginOp s).scrollX = s.scrollX := rfl
@[simp] theorem beginOp_scrollY (s : State) : (beginOp s).scrollY = s.scrollY := rfl
@[simp] theorem beginOp_tickCounter (s : State) : (beginOp s).tickCounter = s.tickCounter := rfl
@[simp] theorem beginOp_scanLine (s : State) : (beginOp s).scanLine = s.scanLine := rfl
@[simp] theorem beginOp_pat (s : State) : (beginOp s).pat = s.pat := rfl
@[simp] theorem beginOp_nt0 (s : State) : (beginOp s).nt0 = s.nt0 := rfl
@[simp] theorem beginOp_nt1 (s : State) : (beginOp s).nt1 = s.nt1 := rfl
@[simp] theorem beginOp_pal (s : State) : (beginOp s).pal = s.pal := rfl
@[simp] theorem beginOp_oam (s : State) : (beginOp s).oam = s.oam := rfl
@[simp] theorem beginOp_fb (s : State) : (beginOp s).fb = s.fb := rfl
@[simp] theorem beginOp_halted (s : State) : (beginOp s).halted = s.halted := rfl
@[simp] theorem beginOp_diagCount (s : State) : (beginOp s).diagCount = s.diagCount := rfl
@[simp] theorem beginOp_params (s : State) : (beginOp s).params = s.params := rfl
@[simp] theorem beginOp_regions (s : State) : (beginOp s).regions = s.regions := rfl
@[simp] theorem beginOp_inbox (s : State) : (beginOp s).inbox = s.inbox := rfl
@[simp] theorem beginOp_inCallback (s : State) : (beginOp s).inCallback = s.inCallback := rfl
@[simp] theorem beginOp_out (s : State) : (beginOp s).out = Output.empty := rfl
@[simp] theorem beginOp_draws (s : State) : (beginOp s).draws = s.draws := rfl

/-! ## setFrameRow -/

@[simp] theorem setFrameRow_ctrl (r : Nat) (row : Row) (s : State) : (setFrameRow r row s).ctrl = s.ctrl := rfl
@[simp] theorem setFrameRow_mask (r : Nat) (row : Row) (s : State) : (setFrameRow r row s).mask = s.mask := rfl
@[simp] theorem setFrameRow_vblank (r : Nat) (row : Row) (s : State) : (setFrameRow r row s).vblank = s.vblank := rfl
@[simp] theorem setFrameRow_s0hit (r : Nat) (row : Row) (s : State) : (setFrameRow r row s).s0hit = s.s0hit := rfl
@[simp] theorem setFrameRow_vaddr (r : Nat) (row : Row) (s : State) : (setFrameRow r row s).vaddr = s.vaddr := rfl
@[simp] theorem setFrameRow_w (r : Nat) (row : Row) (s : State) : (setFrameRow r row s).w = s.w := rfl
@[simp] theorem setFrameRow_addrHi (r : Nat) (row : Row) (s : State) : (setFrameRow r row s).addrHi = s.addrHi := rfl
@[simp] theorem setFrameRow_addrHiValid (r : Nat) (row : Row) (s : State) : (setFrameRow r row s).addrHiValid = s.addrHiValid := rfl
@[simp] theorem setFrameRow_vaddrKnown (r : Nat) (row : Row) (s : State) : (setFrameRow r row s).vaddrKnown = s.vaddrKnown := rfl
@[simp] theorem setFrameRow_readBuf (r : Nat) (row : Row) (s : State) : (setFrameRow r row s).readBuf = s.readBuf := rfl
@[simp] theorem setFrameRow_scrollX (r : Nat) (row : Row) (s : State) : (setFrameRow r row s).scrollX = s.scrollX := rfl
@[simp] theorem setFrameRow_scrollY (r : Nat) (row : Row) (s : State) : (setFrameRow r row s).scrollY = s.scrollY := rfl
@[simp] theorem setFrameRow_tickCounter (r : Nat) (row : Row) (s : State) : (setFrameRow r row s).tickCounter = s.tickCounter := rfl
@[simp] theorem setFrameRow_scanLine (r : Nat) (row : Row) (s : State) : (setFrameRow r row s).scanLine = s.scanLine := rfl
@[simp] theorem setFrameRow_pat (r : Nat) (row : Row) (s : State) : (setFrameRow r row s).pat = s.pat := rfl
@[simp] theorem setFrameRow_nt0 (r : Nat) (row : Row) (s : State) : (setFrameRow r row s).nt0 = s.nt0 := rfl
@[simp] theorem setFrameRow_nt1 (r : Nat) (row : Row) (s : State) : (setFrameRow r row s).nt1 = s.nt1 := rfl
@[simp] theorem setFrameRow_pal (r : Nat) (row : Row) (s : State) : (setFrameRow r row s).pal = s.pal := rfl
@[simp] theorem setFrameRow_oam (r : Nat) (row : Row) (s : State) : (setFrameRow r row s).oam = s.oam := rfl
@[simp] theorem setFrameRow_fb (r : Nat) (row : Row) (s : State) : (setFrameRow r row s).fb = s.fb.setRow r row := rfl
@[simp] theorem setFrameRow_halted (r : Nat) (row : Row) (s : State) : (setFrameRow r row s).halted = s.halted := rfl
@[simp] theorem setFrameRow_diagCount (r : Nat) (row : Row) (s : State) : (setFrameRow r row s).diagCount = s.diagCount := rfl
@[simp] theorem setFrameRow_params (r : Nat) (row : Row) (s : State) : (setFrameRow r row s).params = s.params := rfl
@[simp] theorem setFrameRow_regions (r : Nat) (row : Row) (s : State) : (setFrameRow r row s).regions = s.regions := rfl
@[simp] theorem setFrameRow_inbox (r : Nat) (row : Row) (s : State) : (setFrameRow r row s).inbox = s.inbox := rfl
@[simp] theorem setFrameRow_inCallback (r : Nat) (row : Row) (s : State) : (setFrameRow r row s).inCallback = s.inCallback := rfl
@[simp] theorem setFrameRow_out (r : Nat) (row : Row) (s : State) : (setFrameRow r row s).out = s.out := rfl
@[simp] theorem setFrameRow_draws (r : Nat) (row : Row) (s : State) : (setFrameRow r row s).draws = s.draws := rfl

/-! ## emit -/

@[simp] theorem emit_ctrl (e : Event) (s : State) : (emit e s).ctrl = s.ctrl := rfl
@[simp] theorem emit_mask (e : Event) (s : State) : (emit e s).mask = s.mask := rfl
@[simp] theorem emit_vblank (e : Event) (s : State) : (emit e s).vblank = s.vblank := rfl
@[simp] theorem emit_s0hit (e : Event) (s : State) : (emit e s).s0hit = s.s0hit := rfl
@[simp] theorem emit_vaddr (e : Event) (s : State) : (emit e s).vaddr = s.vaddr := rfl
@[simp] theorem emit_w (e : Event) (s : State) : (emit e s).w = s.w := rfl
@[simp] theorem emit_addrHi (e : Event) (s : State) : (emit e s).addrHi = s.addrHi := rfl
@[simp] theorem emit_addrHiValid (e : Event) (s : State) : (emit e s).addrHiValid = s.addrHiValid := rfl
@[simp] theorem emit_vaddrKnown (e : Event) (s : State) : (emit e s).vaddrKnown = s.vaddrKnown := rfl
@[simp] theorem emit_readBuf (e : Event) (s : State) : (emit e s).readBuf = s.readBuf := rfl
@[simp] theorem emit_scrollX (e : Event) (s : State) : (emit e s).scrollX = s.scrollX := rfl
@[simp] theorem emit_scrollY (e : Event) (s : State) : (emit e s).scrollY = s.scrollY := rfl
@[simp] theorem emit_tickCounter (e : Event) (s : State) : (emit e s).tickCounter = s.tickCounter := rfl
@[simp] theorem emit_scanLine (e : Event) (s : State) : (emit e s).scanLine = s.scanLine := rfl
@[simp] theorem emit_pat (e : Event) (s : State) : (emit e s).pat = s.pat := rfl
@[simp] theorem emit_nt0 (e : Event) (s : State) : (emit e s).nt0 = s.nt0 := rfl
@[simp] theorem emit_nt1 (e : Event) (s : State) : (emit e s).nt1 = s.nt1 := rfl
@[simp] theorem emit_pal (e : Event) (s : State) : (emit e s).pal = s.pal := rfl
@[simp] theorem emit_oam (e : Event) (s : State) : (emit e s).oam = s.oam := rfl
@[simp] theorem emit_fb (e : Event) (s : State) : (emit e s).fb = s.fb := rfl
@[simp] theorem emit_halted (e : Event) (s : State) : (emit e s).halted = s.halted := rfl
@[simp] theorem emit_diagCount (e : Event) (s : State) : (emit e s).diagCount = s.diagCount := rfl
@[simp] theorem emit_params (e : Event) (s : State) : (emit e s).params = s.params := rfl
@[simp] theorem emit_regions (e : Event) (s : State) : (emit e s).regions = s.regions := rfl
@[simp] theorem emit_inbox (e : Event) (s : State) : (emit e s).inbox = s.inbox := rfl
@[simp] theorem emit_inCallback (e : Event) (s : State) : (emit e s).inCallback = s.inCallback := rfl
@[simp] theorem emit_out (e : Event) (s : State) : (emit e s).out = { s.out with events := s.out.events ++ [e] } := rfl
@[simp] theorem emit_draws (e : Event) (s : State) : (emit e s).draws = s.draws := rfl

/-! ## acknowledgeStatus -/

@[simp] theorem acknowledgeStatus_ctrl (s : State) : (acknowledgeStatus s).ctrl = s.ctrl := rfl
@[simp] theorem acknowledgeStatus_mask (s : State) : (acknowledgeStatus s).mask = s.mask := rfl
@[simp] theorem acknowledgeStatus_vblank (s : State) : (acknowledgeStatus s).vblank = false := rfl
@[simp] theorem acknowledgeStatus_s0hit (s : State) : (acknowledgeStatus s).s0hit = s.s0hit := rfl
@[simp] theorem acknowledgeStatus_vaddr (s : State) : (acknowledgeStatus s).vaddr = s.vaddr := rfl
@[simp] theorem acknowledgeStatus_w (s : State) : (acknowledgeStatus s).w = false := rfl
@[simp] theorem acknowledgeStatus_addrHi (s : State) : (acknowledgeStatus s).addrHi = s.addrHi := rfl
@[simp] theorem acknowledgeStatus_addrHiValid (s : State) : (acknowledgeStatus s).addrHiValid = s.addrHiValid := rfl
@[simp] theorem acknowledgeStatus_vaddrKnown (s : State) : (acknowledgeStatus s).vaddrKnown = s.vaddrKnown := rfl
@[simp] theorem acknowledgeStatus_readBuf (s : State) : (acknowledgeStatus s).readBuf = s.readBuf := rfl
@[simp] theorem acknowledgeStatus_scrollX (s : State) : (acknowledgeStatus s).scrollX = s.scrollX := rfl
@[simp] theorem acknowledgeStatus_scrollY (s : State) : (acknowledgeStatus s).scrollY = s.scrollY := rfl
@[simp] theorem acknowledgeStatus_tickCounter (s : State) : (acknowledgeStatus s).tickCounter = s.tickCounter := rfl
@[simp] theorem acknowledgeStatus_scanLine (s : State) : (acknowledgeStatus s).scanLine = s.scanLine := rfl
@[simp] theorem acknowledgeStatus_pat (s : State) : (acknowledgeStatus s).pat = s.pat := rfl
@[simp] theorem acknowledgeStatus_nt0 (s : State) : (acknowledgeStatus s).nt0 = s.nt0 := rfl
@[simp] theorem acknowledgeStatus_nt1 (s : State) : (acknowledgeStatus s).nt1 = s.nt1 := rfl
@[simp] theorem acknowledgeStatus_pal (s : State) : (acknowledgeStatus s).pal = s.pal := rfl
@[simp] theorem acknowledgeStatus_oam (s : State) : (acknowledgeStatus s).oam = s.oam := rfl
@[simp] theorem acknowledgeStatus_fb (s : State) : (acknowledgeStatus s).fb = s.fb := rfl
@[simp] theorem acknowledgeStatus_halted (s : State) : (acknowledgeStatus s).halted = s.halted := rfl
@[simp] theorem acknowledgeStatus_diagCount (s : State) : (acknowledgeStatus s).diagCount = s.diagCount + 1 := rfl
@[simp] theorem acknowledgeStatus_params (s : State) : (acknowledgeStatus s).params = s.params := rfl
@[simp] theorem acknowledgeStatus_regions (s : State) : (acknowledgeStatus s).regions = s.regions := rfl
@[simp] theorem acknowledgeStatus_inbox (s : State) : (acknowledgeStatus s).inbox = s.inbox := rfl
@[simp] theorem acknowledgeStatus_inCallback (s : State) : (acknowledgeStatus s).inCallback = s.inCallback := rfl
@[simp] theorem acknowledgeStatus_out (s : State) : (acknowledgeStatus s).out = s.out := rfl
@[simp] theorem acknowledgeStatus_draws (s : State) : (acknowledgeStatus s).draws = s.draws := rfl

/-! ## frameEndFlags -/

@[simp] theorem frameEndFlags_ctrl (s : State) : (frameEndFlags s).ctrl = s.ctrl := rfl
@[simp] theorem frameEndFlags_mask (s : State) : (frameEndFlags s).mask = s.mask := rfl
@[simp] theorem frameEndFlags_vblank (s : State) : (frameEndFlags s).vblank = true := rfl
@[simp] theorem frameEndFlags_s0hit (s : State) : (frameEndFlags s).s0hit = false := rfl
@[simp] theorem frameEndFlags_vaddr (s : State) : (frameEndFlags s).vaddr = s.vaddr := rfl
@[simp] theorem frameEndFlags_w (s : State) : (frameEndFlags s).w = s.w := rfl
@[simp] theorem frameEndFlags_addrHi (s : State) : (frameEndFlags s).addrHi = s.addrHi := rfl
@[simp] theorem frameEndFlags_addrHiValid (s : State) : (frameEndFlags s).addrHiValid = s.addrHiValid := rfl
@[simp] theorem frameEndFlags_vaddrKnown (s : State) : (frameEndFlags s).vaddrKnown = s.vaddrKnown := rfl
@[simp] theorem frameEndFlags_readBuf (s : State) : (frameEndFlags s).readBuf = s.readBuf := rfl
@[simp] theorem frameEndFlags_scrollX (s : State) : (frameEndFlags s).scrollX = s.scrollX := rfl
@[simp] theorem frameEndFlags_scrollY (s : State) : (frameEndFlags s).scrollY = s.scrollY := rfl
@[simp] theorem frameEndFlags_tickCounter (s : State) : (frameEndFlags s).tickCounter = s.tickCounter := rfl
@[simp] theorem frameEndFlags_scanLine (s : State) : (frameEndFlags s).scanLine = s.scanLine := rfl
@[simp] theorem frameEndFlags_pat (s : State) : (frameEndFlags s).pat = s.pat := rfl
@[simp] theorem frameEndFlags_nt0 (s : State) : (frameEndFlags s).nt0 = s.nt0 := rfl
@[simp] theorem frameEndFlags_nt1 (s : State) : (frameEndFlags s).nt1 = s.nt1 := rfl
@[simp] theorem frameEndFlags_pal (s : State) : (frameEndFlags s).pal = s.pal := rfl
@[simp] theorem frameEndFlags_oam (s : State) : (frameEndFlags s).oam = s.oam := rfl
@[simp] theorem frameEndFlags_fb (s : State) : (frameEndFlags s).fb = s.fb := rfl
@[simp] theorem frameEndFlags_halted (s : State) : (frameEndFlags s).halted = s.halted := rfl
@[simp] theorem frameEndFlags_diagCount (s : State) : (frameEndFlags s).diagCount = s.diagCount := rfl
@[simp] theorem frameEndFlags_params (s : State) : (frameEndFlags s).params = s.params := rfl
@[simp] theorem frameEndFlags_regions (s : State) : (frameEndFlags s).regions = s.regions := rfl
@[simp] theorem frameEndFlags_inbox (s : State) : (frameEndFlags s).inbox = s.inbox := rfl
@[simp] theorem frameEndFlags_inCallback (s : State) : (frameEndFlags s).inCallback = s.inCallback := rfl
@[simp] theorem frameEndFlags_out (s : State) : (frameEndFlags s).out = s.out := rfl
@[simp] theorem frameEndFlags_draws (s : State) : (frameEndFlags s).draws = s.draws := rfl

/-! ## endVblank -/

@[simp] theorem endVblank_ctrl (s : State) : (endVblank s).ctrl = s.ctrl := rfl
@[simp] theorem endVblank_mask (s : State) : (endVblank s).mask = s.mask := rfl
@[simp] theorem endVblank_vblank (s : State) : (endVblank s).vblank = false := rfl
@[simp] theorem endVblank_s0hit (s : State) : (endVblank s).s0hit = s.s0hit := rfl
@[simp] theorem endVblank_vaddr (s : State) : (endVblank s).vaddr = s.vaddr := rfl
@[simp] theorem endVblank_w (s : State) : (endVblank s).w = s.w := rfl
@[simp] theorem endVblank_addrHi (s : State) : (endVblank s).addrHi = s.addrHi := rfl
@[simp] theorem endVblank_addrHiValid (s : State) : (endVblank s).addrHiValid = s.addrHiValid := rfl
@[simp] theorem endVblank_vaddrKnown (s : State) : (endVblank s).vaddrKnown = s.vaddrKnown := rfl
@[simp] theorem endVblank_readBuf (s : State) : (endVblank s).readBuf = s.readBuf := rfl
@[simp] theorem endVblank_scrollX (s : State) : (endVblank s).scrollX = s.scrollX := rfl
@[simp] theorem endVblank_scrollY (s : State) : (endVblank s).scrollY = s.scrollY := rfl
@[simp] theorem endVblank_tickCounter (s : State) : (endVblank s).tickCounter = s.tickCounter := rfl
@[simp] theorem endVblank_scanLine (s : State) : (endVblank s).scanLine = s.scanLine := rfl
@[simp] theorem endVblank_pat (s : State) : (endVblank s).pat = s.pat := rfl
@[simp] theorem endVblank_nt0 (s : State) : (endVblank s).nt0 = s.nt0 := rfl
@[simp] theorem endVblank_nt1 (s : State) : (endVblank s).nt1 = s.nt1 := rfl
@[simp] theorem endVblank_pal (s : State) : (endVblank s).pal = s.pal := rfl
@[simp] theorem endVblank_oam (s : State) : (endVblank s).oam = s.oam := rfl
@[simp] theorem endVblank_fb (s : State) : (endVblank s).fb = s.fb := rfl
@[simp] theorem endVblank_halted (s : State) : (endVblank s).halted = s.halted := rfl
@[simp] theorem endVblank_diagCount (s : State) : (endVblank s).diagCount = s.diagCount := rfl
@[simp] theorem endVblank_params (s : State) : (endVblank s).params = s.params := rfl
@[simp] theorem endVblank_regions (s : State) : (endVblank s).regions = s.regions := rfl
@[simp] theorem endVblank_inbox (s : State) : (endVblank s).inbox = s.inbox := rfl
@[simp] theorem endVblank_inCallback (s : State) : (endVblank s).inCallback = s.inCallback := rfl
@[simp] theorem endVblank_out (s : State) : (endVblank s).out = s.out := rfl
@[simp] theorem endVblank_draws (s : State) : (endVblank s).draws = s.draws := rfl

/-! ## palWrite -/

@[simp] theorem palWrite_ctrl (o : BitVec 5) (v : Byte) (s : State) : (palWrite o v s).ctrl = s.ctrl := rfl
@[simp] theorem palWrite_mask (o : BitVec 5) (v : Byte) (s : State) : (palWrite o v s).mask = s.mask := rfl
@[simp] theorem palWrite_vblank (o : BitVec 5) (v : Byte) (s : State) : (palWrite o v s).vblank = s.vblank := rfl
@[simp] theorem palWrite_s0hit (o : BitVec 5) (v : Byte) (s : State) : (palWrite o v s).s0hit = s.s0hit := rfl
@[simp] theorem palWrite_vaddr (o : BitVec 5) (v : Byte) (s : State) : (palWrite o v s).vaddr = s.vaddr := rfl
@[simp] theorem palWrite_w (o : BitVec 5) (v : Byte) (s : State) : (palWrite o v s).w = s.w := rfl
@[simp] theorem palWrite_addrHi (o : BitVec 5) (v : Byte) (s : State) : (palWrite o v s).addrHi = s.addrHi := rfl
@[simp] theorem palWrite_addrHiValid (o : BitVec 5) (v : Byte) (s : State) : (palWrite o v s).addrHiValid = s.addrHiValid := rfl
@[simp] theorem palWrite_vaddrKnown (o : BitVec 5) (v : Byte) (s : State) : (palWrite o v s).vaddrKnown = s.vaddrKnown := rfl
@[simp] theorem palWrite_readBuf (o : BitVec 5) (v : Byte) (s : State) : (palWrite o v s).readBuf = s.readBuf := rfl
@[simp] theorem palWrite_scrollX (o : BitVec 5) (v : Byte) (s : State) : (palWrite o v s).scrollX = s.scrollX := rfl
@[simp] theorem palWrite_scrollY (o : BitVec 5) (v : Byte) (s : State) : (palWrite o v s).scrollY = s.scrollY := rfl
@[simp] theorem palWrite_tickCounter (o : BitVec 5) (v : Byte) (s : State) : (palWrite o v s).tickCounter = s.tickCounter := rfl
@[simp] theorem palWrite_scanLine (o : BitVec 5) (v : Byte) (s : State) : (palWrite o v s).scanLine = s.scanLine := rfl
@[simp] theorem palWrite_pat (o : BitVec 5) (v : Byte) (s : State) : (palWrite o v s).pat = s.pat := rfl
@[simp] theorem palWrite_nt0 (o : BitVec 5) (v : Byte) (s : State) : (palWrite o v s).nt0 = s.nt0 := rfl
@[simp] theorem palWrite_nt1 (o : BitVec 5) (v : Byte) (s : State) : (palWrite o v s).nt1 = s.nt1 := rfl
@[simp] theorem palWrite_pal (o : BitVec 5) (v : Byte) (s : State) : (palWrite o v s).pal = s.pal.write (palNorm o).toNat v := rfl
@[simp] theorem palWrite_oam (o : BitVec 5) (v : Byte) (s : State) : (palWrite o v s).oam = s.oam := rfl
@[simp] theorem palWrite_fb (o : BitVec 5) (v : Byte) (s : State) : (palWrite o v s).fb = s.fb := rfl
@[simp] theorem palWrite_halted (o : BitVec 5) (v : Byte) (s : State) : (palWrite o v s).halted = s.halted := rfl
@[simp] theorem palWrite_diagCount (o : BitVec 5) (v : Byte) (s : State) : (palWrite o v s).diagCount = s.diagCount := rfl
@[simp] theorem palWrite_params (o : BitVec 5) (v : Byte) (s : State) : (palWrite o v s).params = s.params := rfl
@[simp] theorem palWrite_regions (o : BitVec 5) (v : Byte) (s : State) : (palWrite o v s).regions = s.regions := rfl
@[simp] theorem palWrite_inbox (o : BitVec 5) (v : Byte) (s : State) : (palWrite o v s).inbox = s.inbox := rfl
@[simp] theorem palWrite_inCallback (o : BitVec 5) (v : Byte) (s : State) : (palWrite o v s).inCallback = s.inCallback := rfl
@[simp] theorem palWrite_out (o : BitVec 5) (v : Byte) (s : State) : (palWrite o v s).out = s.out := rfl
@[simp] theorem palWrite_draws (o : BitVec 5) (v : Byte) (s : State) : (palWrite o v s).draws = s.draws := rfl

/-! ## drawReadData -/

@[simp] theorem drawReadData_ctrl (s : State) : (drawReadData s).ctrl = s.ctrl := rfl
@[simp] theorem drawReadData_mask (s : State) : (drawReadData s).mask = s.mask := rfl
@[simp] theorem drawReadData_vblank (s : State) : (drawReadData s).vblank = s.vblank := rfl
@[simp] theorem drawReadData_s0hit (s : State) : (drawReadData s).s0hit = s.s0hit := rfl
@[simp] theorem drawReadData_vaddr (s : State) : (drawReadData s).vaddr = s.vaddr := rfl
@[simp] theorem drawReadData_w (s : State) : (drawReadData s).w = s.w := rfl
@[simp] theorem drawReadData_addrHi (s : State) : (drawReadData s).addrHi = s.addrHi := rfl
@[simp] theorem drawReadData_addrHiValid (s : State) : (drawReadData s).addrHiValid = s.addrHiValid := rfl
@[simp] theorem drawReadData_vaddrKnown (s : State) : (drawReadData s).vaddrKnown = s.vaddrKnown := rfl
@[simp] theorem drawReadData_readBuf (s : State) : (drawReadData s).readBuf = s.readBuf := rfl
@[simp] theorem drawReadData_scrollX (s : State) : (drawReadData s).scrollX = s.scrollX := rfl
@[simp] theorem drawReadData_scrollY (s : State) : (drawReadData s).scrollY = s.scrollY := rfl
@[simp] theorem drawReadData_tickCounter (s : State) : (drawReadData s).tickCounter = s.tickCounter := rfl
@[simp] theorem drawReadData_scanLine (s : State) : (drawReadData s).scanLine = s.scanLine := rfl
@[simp] theorem drawReadData_pat (s : State) : (drawReadData s).pat = s.pat := rfl
@[simp] theorem drawReadData_nt0 (s : State) : (drawReadData s).nt0 = s.nt0 := rfl
@[simp] theorem drawReadData_nt1 (s : State) : (drawReadData s).nt1 = s.nt1 := rfl
@[simp] theorem drawReadData_pal (s : State) : (drawReadData s).pal = s.pal := rfl
@[simp] theorem drawReadData_oam (s : State) : (drawReadData s).oam = s.oam := rfl
@[simp] theorem drawReadData_fb (s : State) : (drawReadData s).fb = s.fb := rfl
@[simp] theorem drawReadData_halted (s : State) : (drawReadData s).halted = s.halted := rfl
@[simp] theorem drawReadData_diagCount (s : State) : (drawReadData s).diagCount = s.diagCount := rfl
@[simp] theorem drawReadData_params (s : State) : (drawReadData s).params = s.params := rfl
@[simp] theorem drawReadData_regions (s : State) : (drawReadData s).regions = s.regions := rfl
@[simp] theorem drawReadData_inbox (s : State) : (drawReadData s).inbox = s.inbox := rfl
@[simp] theorem drawReadData_inCallback (s : State) : (drawReadData s).inCallback = s.inCallback := rfl
@[simp] theorem drawReadData_out (s : State) : (drawReadData s).out = { s.out with data := some (Config.benignByte s.draws) } := rfl
@[simp] theorem drawReadData_draws (s : State) : (drawReadData s).draws = s.draws + 1 := rfl

/-! ## issue -/

@[simp] theorem issue_ctrl (w : OpWord) (s : State) : (issue w s).ctrl = s.ctrl := rfl
@[simp] theorem issue_mask (w : OpWord) (s : State) : (issue w s).mask = s.mask := rfl
@[simp] theorem issue_vblank (w : OpWord) (s : State) : (issue w s).vblank = s.vblank := rfl
@[simp] theorem issue_s0hit (w : OpWord) (s : State) : (issue w s).s0hit = s.s0hit := rfl
@[simp] theorem issue_vaddr (w : OpWord) (s : State) : (issue w s).vaddr = s.vaddr := rfl
@[simp] theorem issue_w (w : OpWord) (s : State) : (issue w s).w = s.w := rfl
@[simp] theorem issue_addrHi (w : OpWord) (s : State) : (issue w s).addrHi = s.addrHi := rfl
@[simp] theorem issue_addrHiValid (w : OpWord) (s : State) : (issue w s).addrHiValid = s.addrHiValid := rfl
@[simp] theorem issue_vaddrKnown (w : OpWord) (s : State) : (issue w s).vaddrKnown = s.vaddrKnown := rfl
@[simp] theorem issue_readBuf (w : OpWord) (s : State) : (issue w s).readBuf = s.readBuf := rfl
@[simp] theorem issue_scrollX (w : OpWord) (s : State) : (issue w s).scrollX = s.scrollX := rfl
@[simp] theorem issue_scrollY (w : OpWord) (s : State) : (issue w s).scrollY = s.scrollY := rfl
@[simp] theorem issue_tickCounter (w : OpWord) (s : State) : (issue w s).tickCounter = s.tickCounter := rfl
@[simp] theorem issue_scanLine (w : OpWord) (s : State) : (issue w s).scanLine = s.scanLine := rfl
@[simp] theorem issue_pat (w : OpWord) (s : State) : (issue w s).pat = s.pat := rfl
@[simp] theorem issue_nt0 (w : OpWord) (s : State) : (issue w s).nt0 = s.nt0 := rfl
@[simp] theorem issue_nt1 (w : OpWord) (s : State) : (issue w s).nt1 = s.nt1 := rfl
@[simp] theorem issue_pal (w : OpWord) (s : State) : (issue w s).pal = s.pal := rfl
@[simp] theorem issue_oam (w : OpWord) (s : State) : (issue w s).oam = s.oam := rfl
@[simp] theorem issue_fb (w : OpWord) (s : State) : (issue w s).fb = s.fb := rfl
@[simp] theorem issue_halted (w : OpWord) (s : State) : (issue w s).halted = s.halted := rfl
@[simp] theorem issue_diagCount (w : OpWord) (s : State) : (issue w s).diagCount = s.diagCount := rfl
@[simp] theorem issue_params (w : OpWord) (s : State) : (issue w s).params = s.params := rfl
@[simp] theorem issue_regions (w : OpWord) (s : State) : (issue w s).regions = s.regions := rfl
@[simp] theorem issue_inbox (w : OpWord) (s : State) : (issue w s).inbox = .op w :: s.inbox := rfl
@[simp] theorem issue_inCallback (w : OpWord) (s : State) : (issue w s).inCallback = s.inCallback := rfl
@[simp] theorem issue_out (w : OpWord) (s : State) : (issue w s).out = s.out := rfl
@[simp] theorem issue_draws (w : OpWord) (s : State) : (issue w s).draws = s.draws := rfl

end Sys2Proof.Machine
end

