-- ==== Sys2Proof/Laws/Memory.lean ====
section
/-! SUPPORT. Laws of memory cells and frame rows: read after write, and every operation keeps the canonical form. -/

namespace Sys2Proof.Machine

/-! ## Read after write -/

@[simp] theorem Memory.read_nil (a : Nat) : Memory.read [] a = 0 := rfl

theorem Memory.read_insert (m : Memory) (a : Nat) (v : Byte) (b : Nat) :
    (Memory.insert a v m).read b = if b = a then v else m.read b := by
  induction m with
  | nil => simp [Memory.insert, Memory.read, eq_comm]
  | cons c m ih =>
    obtain ⟨k, u⟩ := c
    unfold Memory.insert
    split
    · simp [Memory.read, eq_comm]
    · split
      · subst_vars
        simp only [Memory.read]
        by_cases h : b = k
        · simp [h]
        · simp [h, Ne.symm h]
      · simp only [Memory.read, ih]
        by_cases h : k = b
        · have : b ≠ a := by omega
          simp [h, this]
        · simp [h]

theorem Memory.read_filter (m : Memory) (a b : Nat) :
    Memory.read (m.filter (fun c => c.1 ≠ a)) b = if b = a then 0 else m.read b := by
  induction m with
  | nil => simp
  | cons c m ih =>
    obtain ⟨k, u⟩ := c
    by_cases hk : k = a
    · subst hk
      simp only [ne_eq, not_true_eq_false, decide_false, Bool.false_eq_true, not_false_eq_true,
        List.filter_cons_of_neg, Memory.read] at ih ⊢
      rw [ih]
      by_cases h : b = k
      · simp [h]
      · simp [h, Ne.symm h]
    · rw [List.filter_cons_of_pos (by simpa using hk)]
      simp only [Memory.read, ih]
      by_cases h : k = b
      · subst h; simp [hk]
      · simp [h]

/-- A read after a write gives the written byte at its address and leaves every other address alone (R60, R74). -/
@[simp] theorem Memory.read_write (m : Memory) (a : Nat) (v : Byte) (b : Nat) :
    (m.write a v).read b = if b = a then v else m.read b := by
  unfold Memory.write
  split
  · next h => rw [Memory.read_filter, h]
  · exact Memory.read_insert m a v b

/-! ## The canonical form -/

theorem Memory.mem_insert {m : Memory} {a : Nat} {v : Byte} {c : Host.Cell} (h : c ∈ Memory.insert a v m) :
    c = (a, v) ∨ c ∈ m := by
  induction m with
  | nil => simpa [Memory.insert] using h
  | cons d m ih =>
    unfold Memory.insert at h
    split at h
    · simpa using h
    · split at h
      · rcases List.mem_cons.1 h with h | h
        · exact .inl h
        · exact .inr (List.mem_cons_of_mem _ h)
      · rcases List.mem_cons.1 h with h | h
        · exact .inr (h ▸ List.mem_cons_self)
        · rcases ih h with h | h
          · exact .inl h
          · exact .inr (List.mem_cons_of_mem _ h)

/-- Every entry after a write is the written one or an entry of before. -/
theorem Memory.mem_write {m : Memory} {a : Nat} {v : Byte} {c : Host.Cell} (h : c ∈ m.write a v) :
    (c = (a, v) ∧ v ≠ 0) ∨ c ∈ m := by
  unfold Memory.write at h
  split at h
  · exact .inr (List.mem_filter.1 h).1
  · next hv =>
    rcases Memory.mem_insert h with h | h
    · exact .inl ⟨h, hv⟩
    · exact .inr h

theorem Memory.pairwise_insert {m : Memory} (a : Nat) (v : Byte) (h : m.Pairwise (fun c d => c.1 < d.1)) :
    (Memory.insert a v m).Pairwise (fun c d => c.1 < d.1) := by
  induction m with
  | nil => simp [Memory.insert]
  | cons c m ih =>
    obtain ⟨hc, hm⟩ := List.pairwise_cons.1 h
    unfold Memory.insert
    split
    · next hlt =>
      refine List.pairwise_cons.2 ⟨fun d hd => ?_, h⟩
      rcases List.mem_cons.1 hd with hd | hd
      · exact hd ▸ hlt
      · exact Nat.lt_trans hlt (hc d hd)
    · split
      · next heq =>
        exact List.pairwise_cons.2 ⟨fun d hd => heq ▸ hc d hd, hm⟩
      · next hlt hne =>
        refine List.pairwise_cons.2 ⟨fun d hd => ?_, ih hm⟩
        rcases Memory.mem_insert hd with hd | hd
        · subst hd
          show c.1 < a
          omega
        · exact hc d hd

/-- A write keeps the canonical form. -/
theorem Memory.wf_write {m : Memory} (a : Nat) (v : Byte) (h : m.wf) : (m.write a v).wf := by
  refine ⟨?_, fun c hc => ?_⟩
  · unfold Memory.write
    split
    · exact h.1.filter _
    · exact Memory.pairwise_insert a v h.1
  · rcases Memory.mem_write hc with ⟨rfl, hv⟩ | hc
    · exact hv
    · exact h.2 c hc

theorem Memory.below_write {m : Memory} {n a : Nat} (v : Byte) (h : m.below n) (ha : a < n) : (m.write a v).below n := by
  intro c hc
  rcases Memory.mem_write hc with ⟨rfl, -⟩ | hc
  · exact ha
  · exact h c hc

/-- A write below `n` keeps a memory of `n` bytes in canonical form. -/
theorem Memory.ok_write {m : Memory} {n a : Nat} (v : Byte) (h : m.ok n) (ha : a < n) : (m.write a v).ok n :=
  ⟨Memory.wf_write a v h.1, Memory.below_write v h.2 ha⟩

theorem Memory.ok_nil (n : Nat) : Memory.ok [] n := ⟨⟨.nil, by simp⟩, by simp [Memory.below]⟩

/-- Loading bytes below `n` keeps a memory of `n` bytes in canonical form. -/
theorem Memory.ok_load {n : Nat} (bs : List Byte) (m : Memory) (a : Nat) (h : m.ok n) (ha : a + bs.length ≤ n) :
    (m.load a bs).ok n := by
  induction bs generalizing m a with
  | nil => exact h
  | cons b bs ih =>
    simp only [List.length_cons] at ha
    exact ih _ _ (Memory.ok_write b h (by omega)) (by omega)

/-- Loading puts byte `i` of the list at address `a + i` and leaves every other address alone. -/
theorem Memory.read_load (bs : List Byte) (m : Memory) (a b : Nat) :
    (m.load a bs).read b = if a ≤ b then (bs[b - a]?).getD (m.read b) else m.read b := by
  induction bs generalizing m a with
  | nil => simp [Memory.load]
  | cons x bs ih =>
    rw [Memory.load, ih]
    by_cases h : a + 1 ≤ b
    · have e : b - a = (b - (a + 1)) + 1 := by omega
      have hb : b ≠ a := by omega
      simp [h, show a ≤ b by omega, e, hb]
    · by_cases hb : b = a
      · subst hb
        simp
      · simp [h, hb, show ¬ a ≤ b by omega]

/-! ## Frame rows -/

theorem Frame.find_insertRow (r : Nat) (row : Row) (rows : List (Nat × Row)) (q : Nat) :
    ((Frame.insertRow r row rows).find? (fun e => e.1 = q)).map (·.2) =
      if q = r then some row else (rows.find? (fun e => e.1 = q)).map (·.2) := by
  induction rows with
  | nil =>
    by_cases h : q = r
    · simp [Frame.insertRow, h]
    · simp [Frame.insertRow, h, Ne.symm h]
  | cons c rows ih =>
    obtain ⟨k, old⟩ := c
    unfold Frame.insertRow
    split
    · by_cases h : q = r
      · simp [h]
      · simp [h, Ne.symm h]
    · split
      · next heq =>
        subst heq
        by_cases h : q = r
        · simp [h]
        · simp [h, Ne.symm h]
      · by_cases h : k = q
        · have : q ≠ r := by omega
          simp [h, this]
        · simp only [List.find?_cons, h, decide_false]
          exact ih

/-- A row after a row is set: the new words, or the row of before. -/
@[simp] theorem Frame.row_setRow (f : Frame) (r : Nat) (row : Row) (q : Nat) :
    (f.setRow r row).row? q = if q = r then some row else f.row? q :=
  Frame.find_insertRow r row f.rows q

@[simp] theorem Frame.setRow_draw (f : Frame) (r : Nat) (row : Row) : (f.setRow r row).draw = f.draw := rfl

theorem Frame.mem_insertRow {r : Nat} {row : Row} {rows : List (Nat × Row)} {e : Nat × Row}
    (h : e ∈ Frame.insertRow r row rows) : e = (r, row) ∨ e ∈ rows := by
  induction rows with
  | nil => simpa [Frame.insertRow] using h
  | cons d rows ih =>
    unfold Frame.insertRow at h
    split at h
    · simpa using h
    · split at h
      · rcases List.mem_cons.1 h with h | h
        · exact .inl h
        · exact .inr (List.mem_cons_of_mem _ h)
      · rcases List.mem_cons.1 h with h | h
        · exact .inr (h ▸ List.mem_cons_self)
        · rcases ih h with h | h
          · exact .inl h
          · exact .inr (List.mem_cons_of_mem _ h)

/-- Setting one of the frame's rows keeps the frame canonical. -/
theorem Frame.ok_setRow {f : Frame} {r : Nat} (row : Row) (h : f.ok) (hr : r < Config.frameRows) : (f.setRow r row).ok := by
  refine ⟨?_, fun e he => ?_⟩
  · have hp := h.1
    show (Frame.insertRow r row f.rows).Pairwise _
    generalize f.rows = rows at hp
    induction rows with
    | nil => simp [Frame.insertRow]
    | cons c rows ih =>
      obtain ⟨hc, hm⟩ := List.pairwise_cons.1 hp
      unfold Frame.insertRow
      split
      · next hlt =>
        refine List.pairwise_cons.2 ⟨fun d hd => ?_, hp⟩
        rcases List.mem_cons.1 hd with hd | hd
        · exact hd ▸ hlt
        · exact Nat.lt_trans hlt (hc d hd)
      · split
        · next heq => exact List.pairwise_cons.2 ⟨fun d hd => heq ▸ hc d hd, hm⟩
        · next hlt hne =>
          refine List.pairwise_cons.2 ⟨fun d hd => ?_, ih hm⟩
          rcases Frame.mem_insertRow hd with hd | hd
          · subst hd
            show c.1 < r
            omega
          · exact hc d hd
  · rcases Frame.mem_insertRow he with rfl | he
    · exact hr
    · exact h.2 e he

end Sys2Proof.Machine
end

