-- ==== Sys2Proof/Laws/Ops.lean ====
section
/-! SUPPORT. What each shared operation can do, said once: the course of an operation, taking an error, the memory
targets and the two dispatchers inside the block. -/

namespace Sys2Proof.Machine

/-! ## The course of an operation -/

theorem operation_running {s : State} (h : s.halted = none) (body : State → Host.Outcome State Fault Refusal) :
    operation s body = body (beginOp s) := by
  simp [operation, h]

theorem operation_halted {s : State} {e : Err} (h : s.halted = some e)
    (body : State → Host.Outcome State Fault Refusal) : operation s body = .fault (.halted e) := by
  simp [operation, h]

/-- An operation answers a next state only where the block is not halted, and then by its body. -/
theorem operation_next {s t : State} {body : State → Host.Outcome State Fault Refusal}
    (h : operation s body = .next t) : s.halted = none ∧ body (beginOp s) = .next t := by
  cases hs : s.halted with
  | none => rw [operation_running hs] at h; exact ⟨rfl, h⟩
  | some e => simp [operation_halted hs] at h

/-- A next state of an operation without data: the body's state, or the state after taking the error it raised. -/
theorem runWrite_next {f : State → Res Unit} {s t : State} (h : runWrite f s = .next t) :
    s.halted = none ∧ (f (beginOp s) = .done () t ∨
      ∃ e u, f (beginOp s) = .raised e u ∧ t = takeError e u) := by
  obtain ⟨hs, h⟩ := operation_next h
  refine ⟨hs, ?_⟩
  cases hf : f (beginOp s) with
  | done a u => simp only [hf, settleWrite, Host.Outcome.next.injEq] at h; exact .inl (by rw [h])
  | raised e u => simp only [hf, settleWrite, Host.Outcome.next.injEq] at h; exact .inr ⟨e, u, rfl, h.symm⟩
  | refused r => simp [hf, settleWrite] at h

/-- A next state of an operation with data: the body's state with its byte handed out, or the state after taking the
error it raised. -/
theorem runRead_next {f : State → Res Byte} {s t : State} (h : runRead f s = .next t) :
    s.halted = none ∧
      ((∃ b u, f (beginOp s) = .done b u ∧ t = { u with out := { u.out with data := some b } }) ∨
        ∃ e u, f (beginOp s) = .raised e u ∧ t = takeReadError e u) := by
  obtain ⟨hs, h⟩ := operation_next h
  refine ⟨hs, ?_⟩
  cases hf : f (beginOp s) with
  | done b u => simp only [hf, settleRead, Host.Outcome.next.injEq] at h; exact .inl ⟨b, u, rfl, h.symm⟩
  | raised e u => simp only [hf, settleRead, Host.Outcome.next.injEq] at h; exact .inr ⟨e, u, rfl, h.symm⟩
  | refused r => simp [hf, settleRead] at h

theorem runWrite_of_done {f : State → Res Unit} {s t : State} (h : s.halted = none)
    (hf : f (beginOp s) = .done () t) : runWrite f s = .next t := by
  simp [runWrite, operation_running h, hf, settleWrite]

theorem runWrite_of_raised {f : State → Res Unit} {s u : State} {e : Err} (h : s.halted = none)
    (hf : f (beginOp s) = .raised e u) : runWrite f s = .next (takeError e u) := by
  simp [runWrite, operation_running h, hf, settleWrite]

theorem runRead_of_done {f : State → Res Byte} {s u : State} {b : Byte} (h : s.halted = none)
    (hf : f (beginOp s) = .done b u) :
    runRead f s = .next { u with out := { u.out with data := some b } } := by
  simp [runRead, operation_running h, hf, settleRead]

theorem runRead_of_raised {f : State → Res Byte} {s u : State} {e : Err} (h : s.halted = none)
    (hf : f (beginOp s) = .raised e u) : runRead f s = .next (takeReadError e u) := by
  simp [runRead, operation_running h, hf, settleRead]

/-! ## Taking an error -/

/-- Taking an error hands it out and, where it is fatal, records it; nothing else changes (R264, R265). -/
theorem takeError_eq (e : Err) (s : State) :
    takeError e s = { s with out := { s.out with error := some e },
                             halted := if downgraded s.params e then s.halted else some e } := by
  unfold takeError
  split <;> simp_all

/-- Taking an error of a read changes, besides, only the drawn byte (R266). -/
theorem takeReadError_eq (e : Err) (s : State) :
    takeReadError e s =
      { s with
        out := { s.out with
                 error := some e
                 data := if downgraded s.params e then some (Config.benignByte s.draws) else s.out.data }
        halted := if downgraded s.params e then s.halted else some e
        draws := if downgraded s.params e then s.draws + 1 else s.draws } := by
  unfold takeReadError
  split <;> simp_all [takeError_eq, drawReadData]

/-! ## Memory targets -/

/-- What a write of a memory target can do: it changes the one memory, or the one region, it addresses. -/
theorem memWrite_ok {t : MemTarget} {off : Nat} {v : Byte} {s u : State} (h : memWrite t off v s = .ok u) :
    (t = .pattern ∧ off < 8192 ∧ u = { s with pat := s.pat.write off v }) ∨
    (t = .nameTable0 ∧ off < 1024 ∧ u = { s with nt0 := s.nt0.write off v }) ∨
    (t = .nameTable1 ∧ off < 1024 ∧ u = { s with nt1 := s.nt1.write off v }) ∨
    (t = .palette ∧ off < 32 ∧ u = palWrite (BitVec.ofNat 5 off) v s) ∨
    (∃ id r, t = .platform id ∧ s.regions[id]? = some r ∧ off < r.size ∧ r.kind = .ram ∧
      u = { s with regions := s.regions.set id { r with bytes := r.bytes.write off v } }) := by
  cases t with
  | pattern =>
    simp only [memWrite, Config.patternSize] at h
    split at h
    · split at h
      · cases h; simp [*]
      · cases h
    · cases h
  | nameTable0 =>
    simp only [memWrite, Config.nameTableSize] at h
    split at h
    · cases h; simp [*]
    · cases h
  | nameTable1 =>
    simp only [memWrite, Config.nameTableSize] at h
    split at h
    · cases h; simp [*]
    · cases h
  | palette =>
    simp only [memWrite, Config.paletteSize] at h
    split at h
    · cases h; simp [*]
    · cases h
  | platform id =>
    simp only [memWrite] at h
    split at h
    · next r hr =>
      split at h
      · next hlt =>
        split at h
        · next hk =>
          cases h
          exact .inr (.inr (.inr (.inr ⟨id, r, rfl, hr, hlt, hk, rfl⟩)))
        · cases h
      · cases h
    · cases h

/-! ## The video bus (R70, R73) -/

/-- The handler of a video address (R70, R73). -/
theorem findHandler_videoMap (a : SysAddr) :
    findHandler videoMap a =
      if a.toNat < 0x2000 then some { base := 0x0000, size := 0x2000, target := .pattern }
      else if a.toNat < 0x2400 then some { base := 0x2000, size := 0x0400, target := .nameTable0 }
      else if a.toNat < 0x2800 then some { base := 0x2400, size := 0x0400, target := .nameTable1 }
      else if 0x3F00 ≤ a.toNat ∧ a.toNat < 0x3F20 then some { base := 0x3F00, size := 0x0020, target := .palette }
      else none := by
  simp only [findHandler, videoMap, registerHandler, handlerCovers, List.nil_append, List.cons_append,
    List.find?_cons, List.find?_nil]
  repeat' split
  all_goals first | rfl | (exfalso; simp_all; try omega)

/-- A video address fits in 16 bits. -/
theorem vidAddr_mod (a : VidAddr) : a.toNat % 65536 = a.toNat := by
  have := a.isLt
  omega

theorem vidAddr_toNat (a : VidAddr) : (a.setWidth 16 : SysAddr).toNat = a.toNat := by
  simp [vidAddr_mod]

/-- A read at an address whose handler is known (R65). -/
theorem videoRead_of_find {a : VidAddr} {h : Handler MemTarget} {off : Nat} {b : Byte} {s : State}
    (hf : findHandler videoMap (a.setWidth 16) = some h) (ho : a.toNat = h.base.toNat + off)
    (hr : memRead h.target off s = .ok b) : videoRead a s = .done b s := by
  have e : handlerOffset h (a.setWidth 16) = off := by rw [handlerOffset, vidAddr_toNat]; omega
  simp only [videoRead, busMemRead, hf, e, hr]

/-- A write at an address whose handler is known (R66). -/
theorem videoWrite_of_find {a : VidAddr} {h : Handler MemTarget} {off : Nat} {v : Byte} {s t : State}
    (hf : findHandler videoMap (a.setWidth 16) = some h) (ho : a.toNat = h.base.toNat + off)
    (hw : memWrite h.target off v s = .ok t) : videoWrite a v s = .done () t := by
  have e : handlerOffset h (a.setWidth 16) = off := by rw [handlerOffset, vidAddr_toNat]; omega
  simp only [videoWrite, busMemWrite, hf, e, hw]

theorem find_pattern {a : VidAddr} (h : a.toNat < 0x2000) :
    findHandler videoMap (a.setWidth 16) = some { base := 0x0000, size := 0x2000, target := .pattern } := by
  rw [findHandler_videoMap, vidAddr_toNat, if_pos h]

theorem find_nameTable0 {a : VidAddr} (h : 0x2000 ≤ a.toNat) (h' : a.toNat < 0x2400) :
    findHandler videoMap (a.setWidth 16) = some { base := 0x2000, size := 0x0400, target := .nameTable0 } := by
  rw [findHandler_videoMap, vidAddr_toNat, if_neg (by omega), if_pos h']

theorem find_nameTable1 {a : VidAddr} (h : 0x2400 ≤ a.toNat) (h' : a.toNat < 0x2800) :
    findHandler videoMap (a.setWidth 16) = some { base := 0x2400, size := 0x0400, target := .nameTable1 } := by
  rw [findHandler_videoMap, vidAddr_toNat, if_neg (by omega), if_neg (by omega), if_pos h']

theorem find_palette {a : VidAddr} (h : 0x3F00 ≤ a.toNat) (h' : a.toNat < 0x3F20) :
    findHandler videoMap (a.setWidth 16) = some { base := 0x3F00, size := 0x0020, target := .palette } := by
  rw [findHandler_videoMap, vidAddr_toNat, if_neg (by omega), if_neg (by omega), if_neg (by omega), if_pos ⟨h, h'⟩]

theorem find_unmapped {a : VidAddr} (h : 0x2800 ≤ a.toNat) (h' : ¬ (0x3F00 ≤ a.toNat ∧ a.toNat < 0x3F20)) :
    findHandler videoMap (a.setWidth 16) = none := by
  rw [findHandler_videoMap, vidAddr_toNat, if_neg (by omega), if_neg (by omega), if_neg (by omega), if_neg h']

/-- A read in pattern memory (R70). -/
theorem videoRead_pattern {a : VidAddr} (s : State) (h : a.toNat < 0x2000) :
    videoRead a s = .done (s.pat.read a.toNat) s :=
  videoRead_of_find (find_pattern h) (by simp) (if_pos h)

/-- A read in name table 0 (R70). -/
theorem videoRead_nameTable0 {a : VidAddr} (s : State) (h : 0x2000 ≤ a.toNat) (h' : a.toNat < 0x2400) :
    videoRead a s = .done (s.nt0.read (a.toNat - 0x2000)) s :=
  videoRead_of_find (find_nameTable0 h h') (by simp; omega)
    (if_pos (show a.toNat - 0x2000 < 1024 by omega))

/-- A read in name table 1 (R70). -/
theorem videoRead_nameTable1 {a : VidAddr} (s : State) (h : 0x2400 ≤ a.toNat) (h' : a.toNat < 0x2800) :
    videoRead a s = .done (s.nt1.read (a.toNat - 0x2400)) s :=
  videoRead_of_find (find_nameTable1 h h') (by simp; omega)
    (if_pos (show a.toNat - 0x2400 < 1024 by omega))

/-- A read in palette memory (R70, R75). -/
theorem videoRead_palette {a : VidAddr} (s : State) (h : 0x3F00 ≤ a.toNat) (h' : a.toNat < 0x3F20) :
    videoRead a s = .done (palRead (BitVec.ofNat 5 (a.toNat - 0x3F00)) s) s :=
  videoRead_of_find (find_palette h h') (by simp; omega)
    (if_pos (show a.toNat - 0x3F00 < 32 by omega))

/-- An address no handler covers raises the unmapped-address error, read or written (R73). -/
theorem videoRead_unmapped {a : VidAddr} (s : State) (h : 0x2800 ≤ a.toNat)
    (h' : ¬ (0x3F00 ≤ a.toNat ∧ a.toNat < 0x3F20)) :
    videoRead a s = .raised (.unmappedAddress (a.setWidth 16)) s := by
  simp only [videoRead, busMemRead, find_unmapped h h']

theorem videoWrite_unmapped {a : VidAddr} (v : Byte) (s : State) (h : 0x2800 ≤ a.toNat)
    (h' : ¬ (0x3F00 ≤ a.toNat ∧ a.toNat < 0x3F20)) :
    videoWrite a v s = .raised (.unmappedAddress (a.setWidth 16)) s := by
  simp only [videoWrite, busMemWrite, find_unmapped h h']

/-- A write in pattern memory where it is writable (R72). -/
theorem videoWrite_pattern {a : VidAddr} (v : Byte) (s : State) (h : a.toNat < 0x2000)
    (hp : s.params.patternWritable = true) :
    videoWrite a v s = .done () { s with pat := s.pat.write a.toNat v } :=
  videoWrite_of_find (find_pattern h) (by simp) ((if_pos h).trans (if_pos hp))

/-- A write in pattern memory where it is not writable (R72). -/
theorem videoWrite_pattern_refused {a : VidAddr} (v : Byte) (s : State) (h : a.toNat < 0x2000)
    (hp : s.params.patternWritable = false) : videoWrite a v s = .refused .patternWrite := by
  have hw : memWrite .pattern (a.toNat - (0x0000 : SysAddr).toNat) v s = .error .patternWrite :=
    (if_pos h).trans (if_neg (by simp [hp]))
  simp only [videoWrite, busMemWrite, find_pattern h, handlerOffset, vidAddr_toNat, hw]

theorem videoWrite_nameTable0 {a : VidAddr} (v : Byte) (s : State) (h : 0x2000 ≤ a.toNat) (h' : a.toNat < 0x2400) :
    videoWrite a v s = .done () { s with nt0 := s.nt0.write (a.toNat - 0x2000) v } :=
  videoWrite_of_find (find_nameTable0 h h') (by simp; omega)
    (if_pos (show a.toNat - 0x2000 < 1024 by omega))

theorem videoWrite_nameTable1 {a : VidAddr} (v : Byte) (s : State) (h : 0x2400 ≤ a.toNat) (h' : a.toNat < 0x2800) :
    videoWrite a v s = .done () { s with nt1 := s.nt1.write (a.toNat - 0x2400) v } :=
  videoWrite_of_find (find_nameTable1 h h') (by simp; omega)
    (if_pos (show a.toNat - 0x2400 < 1024 by omega))

theorem videoWrite_palette {a : VidAddr} (v : Byte) (s : State) (h : 0x3F00 ≤ a.toNat) (h' : a.toNat < 0x3F20) :
    videoWrite a v s = .done () (palWrite (BitVec.ofNat 5 (a.toNat - 0x3F00)) v s) :=
  videoWrite_of_find (find_palette h h') (by simp; omega)
    (if_pos (show a.toNat - 0x3F00 < 32 by omega))

/-- A video read never changes the state, and is never refused (R61, R74). -/
theorem videoRead_cases (a : VidAddr) (s : State) :
    (∃ b, videoRead a s = .done b s) ∨ videoRead a s = .raised (.unmappedAddress (a.setWidth 16)) s := by
  by_cases h1 : a.toNat < 0x2000
  · exact .inl ⟨_, videoRead_pattern s h1⟩
  by_cases h2 : a.toNat < 0x2400
  · exact .inl ⟨_, videoRead_nameTable0 s (by omega) h2⟩
  by_cases h3 : a.toNat < 0x2800
  · exact .inl ⟨_, videoRead_nameTable1 s (by omega) h3⟩
  by_cases h4 : 0x3F00 ≤ a.toNat ∧ a.toNat < 0x3F20
  · exact .inl ⟨_, videoRead_palette s h4.1 h4.2⟩
  · exact .inr (videoRead_unmapped s (by omega) h4)

/-- A video write changes one memory, or raises and changes nothing, or is refused (R72, R73, R74). -/
theorem videoWrite_cases (a : VidAddr) (v : Byte) (s : State) :
    (a.toNat < 0x2000 ∧ videoWrite a v s = .done () { s with pat := s.pat.write a.toNat v }) ∨
    (a.toNat < 0x2000 ∧ videoWrite a v s = .refused .patternWrite) ∨
    (a.toNat - 0x2000 < 1024 ∧ videoWrite a v s = .done () { s with nt0 := s.nt0.write (a.toNat - 0x2000) v }) ∨
    (a.toNat - 0x2400 < 1024 ∧ videoWrite a v s = .done () { s with nt1 := s.nt1.write (a.toNat - 0x2400) v }) ∨
    videoWrite a v s = .done () (palWrite (BitVec.ofNat 5 (a.toNat - 0x3F00)) v s) ∨
    videoWrite a v s = .raised (.unmappedAddress (a.setWidth 16)) s := by
  by_cases h1 : a.toNat < 0x2000
  · cases hp : s.params.patternWritable
    · exact .inr (.inl ⟨h1, videoWrite_pattern_refused v s h1 hp⟩)
    · exact .inl ⟨h1, videoWrite_pattern v s h1 hp⟩
  by_cases h2 : a.toNat < 0x2400
  · have := videoWrite_nameTable0 v s (by omega) h2
    exact .inr (.inr (.inl ⟨by omega, this⟩))
  by_cases h3 : a.toNat < 0x2800
  · exact .inr (.inr (.inr (.inl ⟨by omega, videoWrite_nameTable1 v s (by omega) h3⟩)))
  by_cases h4 : 0x3F00 ≤ a.toNat ∧ a.toNat < 0x3F20
  · exact .inr (.inr (.inr (.inr (.inl (videoWrite_palette v s h4.1 h4.2)))))
  · exact .inr (.inr (.inr (.inr (.inr (videoWrite_unmapped v s (by omega) h4)))))

/-! ## Palette offsets (R37, R75) -/

/-- The mirror normalisation never reaches a mirrored offset (R37). -/
theorem palNorm_live (o : BitVec 5) : mirroredOffset (palNorm o).toNat = false := by
  revert o; decide

/-! ## The DMA destination (R241) -/

/-- The DMA destination dispatcher never fails: it stores into sprite memory (R241). -/
theorem dmaStore_eq {i : Nat} (b : Byte) (s : State) (h : i < 256) :
    busMemWrite dmaTargetWrite dmaMap (BitVec.ofNat 16 i) b s = .done () { s with oam := s.oam.write i b } := by
  have e : i % 65536 = i := by omega
  simp [busMemWrite, dmaMap, registerHandler, findHandler, handlerCovers, dmaTargetWrite, handlerOffset,
    Config.spriteSize, e, h]

end Sys2Proof.Machine
end

