-- ==== Sys2Proof/Laws/Bus.lean ====
section
/-! SUPPORT. What a read of the system bus and the DMA copy can do (R65, R80, R240 to R242): one lemma each, cited instead
of unfolding them. -/

namespace Sys2Proof.Machine

/-! ## Reads -/

/-- All that a read of the system bus can change: a status read counts and clears `vblank` and the toggle (R143), a data
read moves the latch and the address (R144), a device's answer takes a draw (log entry 11). -/
structure ReadEffect (s t : State) : Prop where
  rest : ∃ c v g l a n, t = { s with diagCount := c, vblank := v, w := g, readBuf := l, vaddr := a, draws := n }
  toggle : t.w = s.w ∨ t.w = false

theorem ReadEffect.refl (s : State) : ReadEffect s s := ⟨⟨_, _, _, _, _, _, rfl⟩, .inl rfl⟩

theorem rdData_cases (s : State) :
    (rdData s = .refused .unsettledAddress ∧ s.vaddrKnown = false) ∨
    (∃ b, rdData s = .done s.readBuf { s with readBuf := b, vaddr := nextVaddr s }) ∨
    rdData s = .raised (.unmappedAddress (s.vaddr.setWidth 16)) s := by
  unfold rdData
  cases hk : s.vaddrKnown with
  | false => exact .inl ⟨rfl, rfl⟩
  | true =>
    obtain ⟨b, hb⟩ | hb := videoRead_cases s.vaddr s <;> simp [hb, hk]

theorem portViolation_eq {α : Type} (p : WindowPort) (d : Dir) (s : State) :
    (portViolation p d s : Res α) = .raised (.protocolViolation (.window p) d) s := rfl

/-- A window read that completes is a status read or a data read. -/
theorem windowRead_cases (off : Nat) (s : State) :
    (windowRead off s = .done (statusValue s) (acknowledgeStatus s)) ∨
    (∃ b, windowRead off s = .done s.readBuf { s with readBuf := b, vaddr := nextVaddr s }) ∨
    (∃ e, windowRead off s = .raised e s) ∨
    (windowRead off s = .refused .unsettledAddress) ∨
    (8 ≤ off ∧ windowRead off s = .refused .regionOutOfRange) := by
  unfold windowRead
  by_cases h : off < 8
  · rw [if_pos h]
    cases WindowPort.ofOffset (BitVec.ofNat 3 off) with
    | status => exact .inl rfl
    | data =>
      obtain ⟨h, -⟩ | ⟨b, h⟩ | h := rdData_cases s
      · exact .inr (.inr (.inr (.inl h)))
      · exact .inr (.inl ⟨b, h⟩)
      · exact .inr (.inr (.inl ⟨_, h⟩))
    | _ => exact .inr (.inr (.inl ⟨_, rfl⟩))
  · rw [if_neg h]
    exact .inr (.inr (.inr (.inr ⟨by omega, rfl⟩)))

theorem deviceRead_cases (id off : Nat) (s : State) :
    (∃ b, deviceRead id off s = .done b { s with draws := s.draws + 1 }) ∨
    (∃ e, deviceRead id off s = .raised e { s with draws := s.draws + 1 }) := by
  unfold deviceRead
  cases Config.deviceRead id off s.draws with
  | byte b => exact .inl ⟨b, rfl⟩
  | raises e => exact .inr ⟨e, rfl⟩

/-- A read that raises leaves the block as it was, but for the draw a device's answer takes (R264). -/
theorem targetRead_raised {t : Target} {off : Nat} {s u : State} {e : Err} (h : targetRead t off s = .raised e u) :
    ∃ n, u = { s with draws := n } := by
  cases t with
  | mem m =>
    simp only [targetRead] at h
    cases hm : memRead m off s <;> simp [hm] at h
  | window =>
    obtain hw | ⟨b, hw⟩ | ⟨e', hw⟩ | hw | ⟨-, hw⟩ := windowRead_cases off s <;> simp [targetRead, hw] at h
    exact ⟨s.draws, h.2.symm⟩
  | dmaPort =>
    simp only [targetRead, dmaPortRead] at h
    split at h <;> cases h
    exact ⟨_, rfl⟩
  | device id =>
    obtain ⟨b, hw⟩ | ⟨e', hw⟩ := deviceRead_cases id off s <;> simp [targetRead, hw] at h
    exact ⟨_, h.2.symm⟩

theorem targetRead_done {t : Target} {off : Nat} {s u : State} {b : Byte} (h : targetRead t off s = .done b u) :
    ReadEffect s u := by
  cases t with
  | mem m =>
    simp only [targetRead] at h
    cases hm : memRead m off s <;> simp [hm] at h
    exact h.2 ▸ .refl s
  | window =>
    obtain hw | ⟨b, hw⟩ | ⟨e', hw⟩ | hw | ⟨-, hw⟩ := windowRead_cases off s <;> simp [targetRead, hw] at h
    · exact h.2 ▸ ⟨⟨_, _, _, _, _, _, rfl⟩, .inr rfl⟩
    · exact h.2 ▸ ⟨⟨_, _, _, _, _, _, rfl⟩, .inl rfl⟩
  | dmaPort =>
    simp only [targetRead, dmaPortRead] at h
    split at h <;> cases h
  | device id =>
    obtain ⟨b, hw⟩ | ⟨e', hw⟩ := deviceRead_cases id off s <;> simp [targetRead, hw] at h
    exact h.2 ▸ ⟨⟨_, _, _, _, _, _, rfl⟩, .inl rfl⟩

theorem sysRead_raised {a : SysAddr} {s u : State} {e : Err} (h : sysRead a s = .raised e u) :
    ∃ n, u = { s with draws := n } := by
  unfold sysRead at h
  split at h
  · cases h; exact ⟨_, rfl⟩
  · exact targetRead_raised h

theorem sysRead_done {a : SysAddr} {s u : State} {b : Byte} (h : sysRead a s = .done b u) : ReadEffect s u := by
  unfold sysRead at h
  split at h
  · cases h
  · exact targetRead_done h

/-! ## The DMA copy -/

/-- All that a DMA copy can change: what its source reads change, and sprite memory (R240, R247). -/
structure CopyEffect (s t : State) : Prop where
  rest : ∃ c v g l a n m, t = { s with diagCount := c, vblank := v, w := g, readBuf := l, vaddr := a, draws := n, oam := m }
  toggle : t.w = s.w ∨ t.w = false
  size : s.oam.ok Config.spriteSize → t.oam.ok Config.spriteSize
  above : ∀ a, Config.spriteSize ≤ a → t.oam.read a = s.oam.read a

theorem CopyEffect.of_read {s t : State} (h : ReadEffect s t) : CopyEffect s t := by
  obtain ⟨⟨c, v, g, l, a, n, rfl⟩, ht⟩ := h
  exact ⟨⟨_, _, _, _, _, _, _, rfl⟩, ht, id, fun _ _ => rfl⟩

theorem CopyEffect.trans {s t u : State} (h : CopyEffect s t) (h' : CopyEffect t u) : CopyEffect s u := by
  obtain ⟨⟨c, v, g, l, a, n, m, rfl⟩, ht, hs, ha⟩ := h
  obtain ⟨⟨c', v', g', l', a', n', m', rfl⟩, ht', hs', ha'⟩ := h'
  refine ⟨⟨_, _, _, _, _, _, _, rfl⟩, ?_, fun h => hs' (hs h), fun x hx => (ha' x hx).trans (ha x hx)⟩
  rcases ht' with h | h
  · exact ht.imp h.trans h.trans
  · exact .inr h

/-- One stored byte of a DMA copy (R241). -/
theorem dmaStore_done {i : Nat} (b : Byte) (s : State) (h : i < 256) :
    dmaStore i b s = .done () { s with oam := s.oam.write i b } := dmaStore_eq b s h

theorem CopyEffect.store {i : Nat} (b : Byte) (s : State) (h : i < 256) :
    CopyEffect s { s with oam := s.oam.write i b } := by
  refine ⟨⟨_, _, _, _, _, _, _, rfl⟩, .inl rfl, fun hs => Memory.ok_write b hs h, fun a ha => ?_⟩
  have ha : 256 ≤ a := ha
  simp [show a ≠ i by omega]

theorem dmaCopy_effect {page : Byte} {n i : Nat} {s u : State} (hn : i + n ≤ 256) :
    (dmaCopy page n i s = .done () u ∨ ∃ e, dmaCopy page n i s = .raised e u) → CopyEffect s u := by
  induction n generalizing i s with
  | zero =>
    rintro (h | ⟨e, h⟩) <;> cases h
    exact .of_read (.refl _)
  | succ n ih =>
    intro h
    rw [dmaCopy] at h
    cases hr : sysRead (dmaSource page i) s with
    | raised e t =>
      obtain ⟨m, rfl⟩ := sysRead_raised hr
      simp [hr] at h
      obtain rfl := h
      exact .of_read ⟨⟨_, _, _, _, _, _, rfl⟩, .inl rfl⟩
    | refused r => simp [hr] at h
    | done b t =>
      simp only [hr, dmaStore_done b t (show i < 256 by omega)] at h
      exact (CopyEffect.of_read (sysRead_done hr)).trans
        ((CopyEffect.store b t (by omega)).trans (ih (by omega) h))

theorem wrDma_effect {page : Byte} {s u : State} (h : wrDma page s = .done () u ∨ ∃ e, wrDma page s = .raised e u) :
    CopyEffect s u := dmaCopy_effect (by decide) h

/-! ## A copy whose reads complete without effect -/

/-- A copy of `n` bytes whose source reads complete and change nothing stores them in order (R240). -/
theorem dmaCopy_pure {page : Byte} {src : Nat → Byte} {n i : Nat} {s : State} (hn : i + n ≤ 256)
    (h : ∀ j, i ≤ j → j < i + n → ∀ m, sysRead (dmaSource page j) { s with oam := m } =
      .done (src j) { s with oam := m }) :
    ∃ m, (∀ k, dmaCopy page (n + k) i s = dmaCopy page k (i + n) { s with oam := m }) ∧
      ∀ a, m.read a = if i ≤ a ∧ a < i + n then src a else s.oam.read a := by
  induction n generalizing i s with
  | zero => exact ⟨s.oam, fun k => by simp, fun a => by
      rw [if_neg (by omega)]⟩
  | succ n ih =>
    have h0 : sysRead (dmaSource page i) s = .done (src i) s := h i (by omega) (by omega) s.oam
    obtain ⟨m, hm, hr⟩ := ih (i := i + 1) (s := { s with oam := s.oam.write i (src i) }) (by omega)
      (fun j h1 h2 m => h j (by omega) (by omega) m)
    refine ⟨m, fun k => ?_, fun a => ?_⟩
    · rw [show n + 1 + k = (n + k) + 1 by omega, dmaCopy, h0]
      simp only [dmaStore_done (src i) s (show i < 256 by omega), hm k]
      rw [show i + 1 + n = i + (n + 1) by omega]
    · rw [hr a]
      by_cases ha : a = i
      · subst ha; simp
      · simp [ha]
        by_cases h1 : i ≤ a ∧ a < i + (n + 1)
        · rw [if_pos (by omega), if_pos h1]
        · rw [if_neg (by omega), if_neg h1]

end Sys2Proof.Machine
end

