-- ==== Sys2Proof/Laws/Encoding.lean ====
section
/-! SUPPORT. The fields of an assembled word are what it was assembled from, and a word is determined by its fields. -/

namespace Sys2Proof

/-- The low field of an append. -/
theorem extract_append_low {n m : Nat} (x : BitVec n) (y : BitVec m) : (x ++ y).extractLsb' 0 m = y := by
  ext i hi
  simp [BitVec.getLsbD_append, hi]

/-- A field above the low one is a field of the high part. -/
theorem extract_append_high {n m : Nat} (x : BitVec n) (y : BitVec m) (i k : Nat) :
    (x ++ y).extractLsb' (m + i) k = x.extractLsb' i k := by
  ext j hj
  simp [BitVec.getLsbD_append, show ¬ m + i + j < m by omega, show m + i + j - m = i + j by omega]

/-- The whole of a word as one field. -/
theorem extract_all {n : Nat} (x : BitVec n) : x.extractLsb' 0 n = x := by
  ext i hi
  simp

section Ppu16

variable (c : BitVec 2) (d : BitVec 1) (r : BitVec 2) (o : BitVec 3) (x : Byte)

@[simp] theorem Ppu16.data_word : Ppu16.data (c ++ d ++ r ++ o ++ x) = x :=
  extract_append_low (c ++ d ++ r ++ o) x

@[simp] theorem Ppu16.off_word : Ppu16.off (c ++ d ++ r ++ o ++ x) = o :=
  (extract_append_high (c ++ d ++ r ++ o) x 0 3).trans (extract_append_low (c ++ d ++ r) o)

@[simp] theorem Ppu16.rsv_word : Ppu16.rsv (c ++ d ++ r ++ o ++ x) = r :=
  (extract_append_high (c ++ d ++ r ++ o) x 3 2).trans
    ((extract_append_high (c ++ d ++ r) o 0 2).trans (extract_append_low (c ++ d) r))

@[simp] theorem Ppu16.dir_word : Ppu16.dir (c ++ d ++ r ++ o ++ x) = d :=
  (extract_append_high (c ++ d ++ r ++ o) x 5 1).trans
    ((extract_append_high (c ++ d ++ r) o 2 1).trans
      ((extract_append_high (c ++ d) r 0 1).trans (extract_append_low c d)))

@[simp] theorem Ppu16.cls_word : Ppu16.cls (c ++ d ++ r ++ o ++ x) = c :=
  (extract_append_high (c ++ d ++ r ++ o) x 6 2).trans
    ((extract_append_high (c ++ d ++ r) o 3 2).trans
      ((extract_append_high (c ++ d) r 1 2).trans ((extract_append_high c d 0 2).trans (extract_all c))))

end Ppu16

/-- A `PPU16` word is determined by its fields (R101). -/
theorem Ppu16.eq_of_fields {v w : BitVec 16} (hc : cls v = cls w) (hd : dir v = dir w) (hr : rsv v = rsv w)
    (ho : off v = off w) (hx : data v = data w) : v = w := by
  apply BitVec.eq_of_getLsbD_eq
  intro i hi
  have bits : ∀ {st len : Nat}, v.extractLsb' st len = w.extractLsb' st len →
      ∀ j, j < len → v.getLsbD (st + j) = w.getLsbD (st + j) := by
    intro st len h j hj
    have := congrArg (fun y => y.getLsbD j) h
    simpa [hj] using this
  rcases Nat.lt_or_ge i 8 with h | h
  · simpa using bits hx i h
  rcases Nat.lt_or_ge i 11 with h' | h'
  · simpa [show 8 + (i - 8) = i by omega] using bits ho (i - 8) (by omega)
  rcases Nat.lt_or_ge i 13 with h'' | h''
  · simpa [show 11 + (i - 11) = i by omega] using bits hr (i - 11) (by omega)
  rcases Nat.lt_or_ge i 14 with h3 | h3
  · simpa [show 13 + (i - 13) = i by omega] using bits hd (i - 13) (by omega)
  · simpa [show 14 + (i - 14) = i by omega] using bits hc (i - 14) (by omega)

/-- A `PPU16` word is the assembly of its fields (R101). -/
theorem Ppu16.word_fields (w : BitVec 16) : cls w ++ dir w ++ rsv w ++ off w ++ data w = w :=
  Ppu16.eq_of_fields (Ppu16.cls_word ..) (Ppu16.dir_word ..) (Ppu16.rsv_word ..) (Ppu16.off_word ..)
    (Ppu16.data_word ..)

section Bus25

variable (d : BitVec 1) (a : SysAddr) (x : Byte)

@[simp] theorem Bus25.data_word : Bus25.data (d ++ a ++ x) = x := extract_append_low (d ++ a) x

@[simp] theorem Bus25.addr_word : Bus25.addr (d ++ a ++ x) = a :=
  (extract_append_high (d ++ a) x 0 16).trans (extract_append_low d a)

@[simp] theorem Bus25.dir_word : Bus25.dir (d ++ a ++ x) = d :=
  (extract_append_high (d ++ a) x 16 1).trans ((extract_append_high d a 0 1).trans (extract_all d))

end Bus25

/-- A `BUS25` word is determined by its fields (R102). -/
theorem Bus25.eq_of_fields {v w : BitVec 25} (hd : dir v = dir w) (ha : addr v = addr w) (hx : data v = data w) :
    v = w := by
  apply BitVec.eq_of_getLsbD_eq
  intro i hi
  have bits : ∀ {st len : Nat}, v.extractLsb' st len = w.extractLsb' st len →
      ∀ j, j < len → v.getLsbD (st + j) = w.getLsbD (st + j) := by
    intro st len h j hj
    have := congrArg (fun y => y.getLsbD j) h
    simpa [hj] using this
  rcases Nat.lt_or_ge i 8 with h | h
  · simpa using bits hx i h
  rcases Nat.lt_or_ge i 24 with h' | h'
  · simpa [show 8 + (i - 8) = i by omega] using bits ha (i - 8) (by omega)
  · simpa [show 24 + (i - 24) = i by omega] using bits hd (i - 24) (by omega)

/-- A `BUS25` word is the assembly of its fields (R102). -/
theorem Bus25.word_fields (w : BitVec 25) : dir w ++ addr w ++ data w = w :=
  Bus25.eq_of_fields (Bus25.dir_word ..) (Bus25.addr_word ..) (Bus25.data_word ..)

/-- The offset of the port at an offset (R103). -/
@[simp] theorem WindowPort.offset_ofOffset (o : BitVec 3) : (WindowPort.ofOffset o).offset = o := by
  revert o; decide

/-- The port at the offset of a port (R103). -/
@[simp] theorem WindowPort.ofOffset_offset (p : WindowPort) : WindowPort.ofOffset p.offset = p := by
  cases p <;> decide

/-- The word of a port's write and of a port's read (R104). -/
theorem encode_windowWriteInstr (p : WindowPort) (d : Byte) : encode (windowWriteInstr p d) = windowWriteWord p d := by
  cases p <;> rfl

theorem encode_windowReadInstr (p : WindowPort) : encode (windowReadInstr p) = windowReadWord p := by
  cases p <;> rfl

/-- Whether an assembled `PPU16` word is reserved, read off its fields (R109). -/
theorem ppu16Word_wellFormed (c : BitVec 2) (d : BitVec 1) (o : BitVec 3) (x : Byte) :
    (ppu16Word c d o x).wellFormed =
      (c != 0b11#2 && (!(d == 1#1 || c == 0b00#2) || x == 0#8) && (c != 0b10#2 || o == 0#3) &&
        (c != 0b00#2 || (d == 0#1 && o == 0#3))) := by
  have hr : (0#2 == 0#2) = true := rfl
  simp only [ppu16Word, OpWord.wellFormed, Ppu16.wellFormed, Ppu16.classDefined, Ppu16.rsvClear, Ppu16.dataClear,
    Ppu16.dmaOffClear, Ppu16.tickZero, Ppu16.cls_word, Ppu16.dir_word, Ppu16.rsv_word, Ppu16.off_word,
    Ppu16.data_word, hr, Bool.and_true]

/-- No word of a port write or of a port read is reserved. -/
theorem windowWriteWord_wellFormed (p : WindowPort) (d : Byte) : (windowWriteWord p d).wellFormed = true := by
  rw [windowWriteWord, ppu16Word_wellFormed]
  simp

theorem windowReadWord_wellFormed (p : WindowPort) : (windowReadWord p).wellFormed = true := by
  rw [windowReadWord, ppu16Word_wellFormed]
  simp

/-- Whether an assembled `BUS25` word is reserved, read off its fields (R109). -/
theorem bus25Word_wellFormed (d : BitVec 1) (a : SysAddr) (x : Byte) :
    (bus25Word d a x).wellFormed = (d != 1#1 || x == 0#8) := by
  simp only [bus25Word, OpWord.wellFormed, Bus25.wellFormed, Bus25.dir_word, Bus25.data_word]

end Sys2Proof
end

