-- ==== Sys2Proof/Laws/PerInstr.lean ====
section
/-! SUPPORT. Statements made per instruction: the word of every operation spells an operation, with every operand at
every value (R106, R109). -/

namespace Sys2Proof.Laws.EncodeWellFormed

/-- The word of the operation is not reserved. -/
def Statement (i : Instr) : Prop := (encode i).wellFormed = true

theorem tick : Statement .tick := (ppu16Word_wellFormed _ _ _ _).trans (by simp)

theorem wrCtrl (d : Byte) : Statement (.wrCtrl d) := windowWriteWord_wellFormed _ _

theorem wrMask (d : Byte) : Statement (.wrMask d) := windowWriteWord_wellFormed _ _

theorem wrStatus (d : Byte) : Statement (.wrStatus d) := windowWriteWord_wellFormed _ _

theorem wrOamaddr (d : Byte) : Statement (.wrOamaddr d) := windowWriteWord_wellFormed _ _

theorem wrOamdata (d : Byte) : Statement (.wrOamdata d) := windowWriteWord_wellFormed _ _

theorem wrScroll (d : Byte) : Statement (.wrScroll d) := windowWriteWord_wellFormed _ _

theorem wrAddr (d : Byte) : Statement (.wrAddr d) := windowWriteWord_wellFormed _ _

theorem wrData (d : Byte) : Statement (.wrData d) := windowWriteWord_wellFormed _ _

theorem rdCtrl : Statement .rdCtrl := windowReadWord_wellFormed _

theorem rdMask : Statement .rdMask := windowReadWord_wellFormed _

theorem rdStatus : Statement .rdStatus := windowReadWord_wellFormed _

theorem rdOamaddr : Statement .rdOamaddr := windowReadWord_wellFormed _

theorem rdOamdata : Statement .rdOamdata := windowReadWord_wellFormed _

theorem rdScroll : Statement .rdScroll := windowReadWord_wellFormed _

theorem rdAddr : Statement .rdAddr := windowReadWord_wellFormed _

theorem rdData : Statement .rdData := windowReadWord_wellFormed _

theorem wrDma (page : Byte) : Statement (.wrDma page) := (ppu16Word_wellFormed _ _ _ _).trans (by simp)

theorem rdDma : Statement .rdDma := (ppu16Word_wellFormed _ _ _ _).trans (by simp)

theorem busWr (a : SysAddr) (d : Byte) : Statement (.busWr a d) := (bus25Word_wellFormed _ _ _).trans (by simp)

theorem busRd (a : SysAddr) : Statement (.busRd a) := (bus25Word_wellFormed _ _ _).trans (by simp)

end Sys2Proof.Laws.EncodeWellFormed
end

