-- ==== Sys2Proof/Laws/Reference.lean ====
section
/-! SUPPORT. The reference definitions of the statements in terms of the machine's own reads. -/

namespace Sys2Proof.Machine

/-- A reference cell is a memory read. -/
theorem cell_eq (m : Memory) (a : Nat) : Reference.cell m a = (m.read a).toNat := by
  induction m with
  | nil => rfl
  | cons c m ih =>
    obtain ⟨k, v⟩ := c
    by_cases h : a = k
    · simp [Reference.cell, Memory.read, List.lookup, h]
    · simpa [Reference.cell, Memory.read, List.lookup, h, Ne.symm h, beq_eq_false_iff_ne.2 h] using ih

/-- The palette cell of an offset (R75). -/
theorem palNorm_toNat (o : BitVec 5) : (palNorm o).toNat = Reference.palCell o.toNat := by
  revert o; decide

/-- A palette read is a read of the reference cell (R75). -/
theorem palRead_toNat (o : BitVec 5) (s : State) :
    (palRead o s).toNat = Reference.cell s.pal (Reference.palCell o.toNat) := by
  rw [cell_eq, palRead, palNorm_toNat]

/-- A bit of a byte as a number. -/
theorem bit_eq (b : Byte) (i : Nat) : Reference.bit b.toNat i = (b.getLsbD i).toNat := by
  rw [Reference.bit, ← BitVec.testBit_toNat, ← Nat.shiftRight_eq_div_pow, Nat.testBit, Nat.and_comm, Nat.and_one_is_mod]
  rcases Nat.mod_two_eq_zero_or_one (b.toNat >>> i) with h | h <;> simp [h]

end Sys2Proof.Machine
end

