-- ==== Sys2Proof/Laws/Render.lean ====
section
/-! SUPPORT. What the two rendering passes compute and change (42_background.md, 43_sprites.md, R121, R131): where each
fetch lands, what a row's pixel is, and that a pass writes its row and nothing else. -/

namespace Sys2Proof.Machine

/-! ## Fetches (R131) -/

theorem fetch_of_done {a : VidAddr} {s : State} {b : Byte} (h : videoRead a s = .done b s) : fetch a s = b := by
  simp [fetch, h]

/-- A fetch below `0x2000` is a pattern read. -/
theorem fetch_pattern {a : VidAddr} (s : State) (h : a.toNat < 0x2000) : fetch a s = s.pat.read a.toNat :=
  fetch_of_done (videoRead_pattern s h)

theorem planeAddr_toNat {base r : Nat} (tile : Byte) (hb : base = 0x0000 ∨ base = 0x1000) (hr : r < 8) :
    (lowPlaneAddr base tile r).toNat = base + tile.toNat * 16 + r ∧
    (highPlaneAddr base tile r).toNat = base + tile.toNat * 16 + r + 8 := by
  have ht := tile.isLt
  simp only [lowPlaneAddr, highPlaneAddr, BitVec.toNat_ofNat]
  omega

/-- The two plane fetches of a tile row read pattern memory (R186, R213). -/
theorem fetch_planes {base r : Nat} (tile : Byte) (s : State) (hb : base = 0x0000 ∨ base = 0x1000) (hr : r < 8) :
    fetch (lowPlaneAddr base tile r) s = s.pat.read (base + tile.toNat * 16 + r) ∧
    fetch (highPlaneAddr base tile r) s = s.pat.read (base + tile.toNat * 16 + r + 8) := by
  have ht := tile.isLt
  obtain ⟨h1, h2⟩ := planeAddr_toNat tile hb hr
  rw [fetch_pattern s (by omega), fetch_pattern s (by omega), h1, h2]
  exact ⟨rfl, rfl⟩

/-- Name table `t` (R36). -/
def nameTable (s : State) (t : Nat) : Memory := if t = 0 then s.nt0 else s.nt1

/-- A fetch at offset `o` of name table `t` reads that name table (R182). -/
theorem fetch_nameTable {a : VidAddr} {t o : Nat} (s : State) (ht : t < 2) (ho : o < 0x400)
    (ha : a.toNat = tableBase t + o) : fetch a s = (nameTable s t).read o := by
  unfold tableBase at ha
  obtain rfl | rfl : t = 0 ∨ t = 1 := by omega
  · rw [fetch_of_done (videoRead_nameTable0 s (by omega) (by omega)), show a.toNat - 0x2000 = o by omega]
    rfl
  · rw [fetch_of_done (videoRead_nameTable1 s (by omega) (by omega)), show a.toNat - 0x2400 = o by omega]
    rfl

theorem tileAddr_toNat {t row col : Nat} (ht : t < 2) (hr : row < 240) (hc : col < 256) :
    (tileAddr t row col).toNat = tableBase t + tileIndex row col ∧ tileIndex row col < 0x3C0 := by
  simp only [tileAddr, tableBase, tileIndex, BitVec.toNat_ofNat]
  omega

theorem attrAddr_toNat {t row col : Nat} (ht : t < 2) (hr : row < 240) (hc : col < 256) :
    (attrAddr t row col).toNat = tableBase t + (0x3C0 + attrIndex row col) ∧ attrIndex row col < 0x40 := by
  simp only [attrAddr, tableBase, attrIndex, BitVec.toNat_ofNat]
  omega

/-- The tile number at a row and column is a byte of the name table (R183). -/
theorem tileNumber_eq (s : State) {t row col : Nat} (ht : t < 2) (hr : row < 240) (hc : col < 256) :
    tileNumber s t row col = (nameTable s t).read (tileIndex row col) :=
  have h := tileAddr_toNat ht hr hc
  fetch_nameTable s ht (by omega) h.1

/-- The palette group at a row and column comes from a byte of the attribute table (R183, R185). -/
theorem bgGroup_eq (s : State) {t row col : Nat} (ht : t < 2) (hr : row < 240) (hc : col < 256) :
    bgGroup s t row col = paletteGroup ((nameTable s t).read (0x3C0 + attrIndex row col)) row col := by
  have h := attrAddr_toNat ht hr hc
  rw [bgGroup, fetch_nameTable s ht (by omega) h.1]

theorem bgBase_cases (s : State) : bgBase s = 0x0000 ∨ bgBase s = 0x1000 := by
  unfold bgBase; split <;> simp

theorem sprBase_cases (s : State) : sprBase s = 0x0000 ∨ sprBase s = 0x1000 := by
  unfold sprBase; split <;> simp

/-- The scrolled column lies in one of the two name tables (R181, R182). -/
theorem tableOf_lt (s : State) {px : Nat} (h : px < 256) : tableOf s (scrolledColumn s px) < 2 := by
  have := s.scrollX.isLt
  unfold tableOf scrolledColumn
  obtain h | h : (px + s.scrollX.toNat) / 256 = 0 ∨ (px + s.scrollX.toNat) / 256 = 1 := by omega
  all_goals rw [h]; cases s.ctrl.getLsbD 0 <;> decide

/-- The colour index of a background pixel from pattern memory (R186, R187). -/
theorem bgColourIndex_eq (s : State) {t row col : Nat} (ht : t < 2) (hr : row < 240) (hc : col < 256) :
    bgColourIndex s t row col =
      colourIndex (s.pat.read (bgBase s + ((nameTable s t).read (tileIndex row col)).toNat * 16 + row % 8))
        (s.pat.read (bgBase s + ((nameTable s t).read (tileIndex row col)).toNat * 16 + row % 8 + 8)) (7 - col % 8) := by
  obtain ⟨h1, h2⟩ := fetch_planes (tileNumber s t row col) s (bgBase_cases s) (show row % 8 < 8 by omega)
  rw [bgColourIndex, h1, h2, tileNumber_eq s ht hr hc]

/-! ## Sprites -/

theorem inRange_iff (y line : Nat) : inRange y line = true ↔ y ≤ line ∧ line < y + 8 := by
  simp [inRange]

theorem spriteRow_lt {y line : Nat} (attributes : Byte) (h : inRange y line = true) : spriteRow y line attributes < 8 := by
  have := (inRange_iff y line).1 h
  unfold spriteRow
  split <;> omega

/-- The colour index of a sprite pixel from pattern memory (R212 to R214). -/
theorem spriteColourIndex_eq (s : State) {n line : Nat} (i : Nat) (h : inRange (spriteY s n) line = true) :
    spriteColourIndex s n line i =
      colourIndex
        (s.pat.read (sprBase s + (spriteTile s n).toNat * 16 + spriteRow (spriteY s n) line (spriteAttr s n)))
        (s.pat.read (sprBase s + (spriteTile s n).toNat * 16 + spriteRow (spriteY s n) line (spriteAttr s n) + 8))
        (spriteBit (spriteAttr s n) i) := by
  obtain ⟨h1, h2⟩ := fetch_planes (spriteTile s n) s (sprBase_cases s) (spriteRow_lt (spriteAttr s n) h)
  simp only [spriteColourIndex, h1, h2]

/-- The word an opaque pixel `i` of entry `n` has (R215). -/
def spriteWord (s : State) (n line i : Nat) : Pixel :=
  colourWord (sprPaletteOffset (spriteColourIndex s n line i) (spriteAttr s n)) s

/-- Drawing one sprite pixel changes at most its own column (R214 to R216). -/
theorem drawSpritePixel_get (s : State) (line n : Nat) (row : Row) (i : Nat) (px : Fin 256) :
    (drawSpritePixel s line n row i)[px] =
      if spriteX s n + i = px.val ∧ spriteColourIndex s n line i ≠ 0 then spriteWord s n line i else row[px] := by
  unfold drawSpritePixel
  by_cases h : spriteX s n + i < 256
  · rw [dif_pos h]
    by_cases hc : spriteColourIndex s n line i = 0
    · simp [hc]
    · rw [if_neg hc]
      simp only [Fin.getElem_fin, Vector.getElem_set, hc, ne_eq, not_false_eq_true, and_true]
      rfl
  · rw [dif_neg h, if_neg]
    have := px.isLt
    omega

/-- Drawing the first `k` pixels of an entry (R214). -/
theorem drawSpritePixels_get (s : State) (line n k : Nat) (row : Row) (px : Fin 256) :
    ((List.range k).foldl (drawSpritePixel s line n) row)[px] =
      if spriteX s n ≤ px.val ∧ px.val < spriteX s n + k ∧ spriteColourIndex s n line (px.val - spriteX s n) ≠ 0
      then spriteWord s n line (px.val - spriteX s n) else row[px] := by
  induction k with
  | zero => rw [if_neg (by omega)]; rfl
  | succ k ih =>
    rw [List.range_succ, List.foldl_append, List.foldl_cons, List.foldl_nil, drawSpritePixel_get, ih]
    by_cases h : spriteX s n + k = px.val
    · have e : px.val - spriteX s n = k := by omega
      rw [e]
      by_cases hc : spriteColourIndex s n line k = 0
      · simp [hc]
      · rw [if_pos ⟨h, hc⟩, if_pos ⟨by omega, by omega, hc⟩]
    · rw [if_neg (fun h' => h h'.1)]
      by_cases hx : spriteX s n ≤ px.val ∧ px.val < spriteX s n + k
      · have : px.val < spriteX s n + (k + 1) := by omega
        simp [hx, this]
      · rw [if_neg (fun h' => hx ⟨h'.1, h'.2.1⟩), if_neg (fun h' => hx ⟨h'.1, by omega⟩)]

/-- Whether entry `n` shows an opaque pixel at column `px` of a frame row (R211, R214). -/
def opaqueAt (s : State) (line n : Nat) (px : Nat) : Prop :=
  inRange (spriteY s n) line = true ∧ spriteX s n ≤ px ∧ px < spriteX s n + 8 ∧
    spriteColourIndex s n line (px - spriteX s n) ≠ 0

/-- Drawing one entry (R210, R211). -/
theorem drawSprite_opaque {s : State} {line n : Nat} {px : Fin 256} (row : Row) (h : opaqueAt s line n px) :
    (drawSprite s line row n)[px] = spriteWord s n line (px - spriteX s n) := by
  rw [drawSprite, if_pos h.1, drawSpritePixels_get, if_pos h.2]

theorem drawSprite_transparent {s : State} {line n : Nat} {px : Fin 256} (row : Row) (h : ¬ opaqueAt s line n px) :
    (drawSprite s line row n)[px] = row[px] := by
  unfold drawSprite
  split
  · next hr => rw [drawSpritePixels_get, if_neg (fun h' => h ⟨hr, h'⟩)]
  · rfl

/-- Entries from `n` on that show nothing at a column leave it alone (R217). -/
theorem drawSprites_transparent {s : State} {line : Nat} {px : Fin 256} (l : List Nat) (row : Row)
    (h : ∀ m ∈ l, ¬ opaqueAt s line m px) : (l.foldl (drawSprite s line) row)[px] = row[px] := by
  induction l generalizing row with
  | nil => rfl
  | cons m l ih =>
    rw [List.foldl_cons, ih _ (fun k hk => h k (List.mem_cons_of_mem m hk)),
      drawSprite_transparent row (h m List.mem_cons_self)]

/-- The last opaque entry shows (R217). -/
theorem drawSprites_last {s : State} {line n : Nat} {px : Fin 256} (before after : List Nat) (row : Row)
    (h : opaqueAt s line n px) (ha : ∀ m ∈ after, ¬ opaqueAt s line m px) :
    ((before ++ n :: after).foldl (drawSprite s line) row)[px] = spriteWord s n line (px - spriteX s n) := by
  rw [List.foldl_append, List.foldl_cons, drawSprites_transparent after _ ha, drawSprite_opaque _ h]

/-! ## What the passes depend on and change -/

/-- A fetch depends on the memories behind the video bus alone (R70). -/
theorem fetch_congr {s t : State} (a : VidAddr) (hp : s.pat = t.pat) (hn0 : s.nt0 = t.nt0) (hn1 : s.nt1 = t.nt1)
    (hl : s.pal = t.pal) : fetch a s = fetch a t := by
  by_cases h1 : a.toNat < 0x2000
  · rw [fetch_pattern s h1, fetch_pattern t h1, hp]
  by_cases h2 : a.toNat < 0x2400
  · rw [fetch_of_done (videoRead_nameTable0 s (by omega) h2), fetch_of_done (videoRead_nameTable0 t (by omega) h2), hn0]
  by_cases h3 : a.toNat < 0x2800
  · rw [fetch_of_done (videoRead_nameTable1 s (by omega) h3), fetch_of_done (videoRead_nameTable1 t (by omega) h3), hn1]
  by_cases h4 : 0x3F00 ≤ a.toNat ∧ a.toNat < 0x3F20
  · rw [fetch_of_done (videoRead_palette s h4.1 h4.2), fetch_of_done (videoRead_palette t h4.1 h4.2), palRead, palRead, hl]
  · simp only [fetch, videoRead_unmapped s (by omega) h4, videoRead_unmapped t (by omega) h4]

/-- Two states whose sprites are drawn alike (R220). -/
theorem spriteRowOver_congr {s t : State} (line : Nat) (row : Row) (ho : s.oam = t.oam)
    (hc : s.ctrl.getLsbD 3 = t.ctrl.getLsbD 3) (hp : s.pat = t.pat) (hl : s.pal = t.pal)
    (hg : s.params.rgb = t.params.rgb) : spriteRowOver s line row = spriteRowOver t line row := by
  have hd : drawSprite s line = drawSprite t line := by
    funext row n
    have hy : spriteY s n = spriteY t n := by rw [spriteY, spriteY, ho]
    have hx : spriteX s n = spriteX t n := by rw [spriteX, spriteX, ho]
    have ht : spriteTile s n = spriteTile t n := by rw [spriteTile, spriteTile, ho]
    have ha : spriteAttr s n = spriteAttr t n := by rw [spriteAttr, spriteAttr, ho]
    have hb : sprBase s = sprBase t := by rw [sprBase, sprBase, hc]
    unfold drawSprite
    rw [hy]
    split
    · next hr =>
      have : drawSpritePixel s line n = drawSpritePixel t line n := by
        funext row i
        have hi : spriteColourIndex s n line i = spriteColourIndex t n line i := by
          rw [spriteColourIndex_eq s i (hy ▸ hr), spriteColourIndex_eq t i hr, hy, ht, ha, hb, hp]
        unfold drawSpritePixel
        simp only [hx, hi, ha, colourWord, palRead, hl, hg]
      rw [this]
    · rfl
  rw [spriteRowOver, spriteRowOver, hd]

/-- Two states whose background is drawn alike (R189, R190). -/
theorem backgroundRow_congr {s t : State} {row : Nat} (hx : s.scrollX = t.scrollX)
    (h0 : s.ctrl.getLsbD 0 = t.ctrl.getLsbD 0) (h4 : s.ctrl.getLsbD 4 = t.ctrl.getLsbD 4) (hn0 : s.nt0 = t.nt0)
    (hn1 : s.nt1 = t.nt1) (hp : s.pat = t.pat) (hl : s.pal = t.pal) (hg : s.params.rgb = t.params.rgb)
    (hr : row < 240) : backgroundRow s row = backgroundRow t row := by
  have hb : bgBase s = bgBase t := by rw [bgBase, bgBase, h4]
  have hn : nameTable s = nameTable t := by funext k; rw [nameTable, nameTable, hn0, hn1]
  unfold backgroundRow
  congr 1
  funext px
  have hc : scrolledColumn s px = scrolledColumn t px := by rw [scrolledColumn, scrolledColumn, hx]
  have ht : tableOf s = tableOf t := by funext c; rw [tableOf, tableOf, h0]
  have hlt := tableOf_lt t px.isLt
  have hm : scrolledColumn t px % 256 < 256 := by omega
  have ho : bgOffset s row px = bgOffset t row px := by
    simp only [bgOffset, hc, ht]
    rw [bgColourIndex_eq s hlt hr hm, bgColourIndex_eq t hlt hr hm, bgGroup_eq s hlt hr hm, bgGroup_eq t hlt hr hm, hb, hn, hp]
  simp only [ho, colourWord, palRead, hl, hg]

/-- A line below 20 renders nothing (R180, R210). -/
theorem renderLine_hidden {l : Nat} (s : State) (h : l < Config.firstVisibleLine) : renderLine l s = s := by
  simp only [renderLine, backgroundPass, spritePass, if_pos h]

/-- A visible line writes its row, the sprites over the background, and nothing else (R121, R189, R220). -/
theorem renderLine_visible {l : Nat} (s : State) (h : Config.firstVisibleLine ≤ l) :
    renderLine l s =
      setFrameRow (l - Config.firstVisibleLine)
        (spriteRowOver s (l - Config.firstVisibleLine) (backgroundRow s (l - Config.firstVisibleLine)))
        (setFrameRow (l - Config.firstVisibleLine) (backgroundRow s (l - Config.firstVisibleLine)) s) := by
  have hn : ¬ l < Config.firstVisibleLine := by omega
  simp only [renderLine, backgroundPass, spritePass, if_neg hn]
  have : (setFrameRow (l - Config.firstVisibleLine) (backgroundRow s (l - Config.firstVisibleLine)) s).fb.row?
      (l - Config.firstVisibleLine) = some (backgroundRow s (l - Config.firstVisibleLine)) := by
    simp [setFrameRow]
  rw [this]
  exact congrArg (setFrameRow _ · _) (spriteRowOver_congr _ _ rfl rfl rfl rfl rfl)

/-- Rendering a line changes the frame alone (R189, R220). -/
theorem renderLine_frame (l : Nat) (s : State) : renderLine l s = { s with fb := (renderLine l s).fb } := by
  by_cases h : l < Config.firstVisibleLine
  · rw [renderLine_hidden s h]
  · rw [renderLine_visible s (by omega)]
    rfl

/-- The rows of the frame after a line is rendered (R121). -/
theorem renderLine_row (l : Nat) (s : State) (r : Nat) :
    (renderLine l s).fb.row? r =
      if Config.firstVisibleLine ≤ l ∧ r = l - Config.firstVisibleLine then some (spriteRowOver s r (backgroundRow s r))
      else s.fb.row? r := by
  by_cases h : l < Config.firstVisibleLine
  · rw [renderLine_hidden s h, if_neg (by omega)]
  · rw [renderLine_visible s (by omega)]
    by_cases hr : r = l - Config.firstVisibleLine
    · rw [if_pos ⟨by omega, hr⟩, hr]
      simp [setFrameRow]
    · rw [if_neg (fun h' => hr h'.2)]
      simp [setFrameRow, hr]

/-- Rendering a line of the frame keeps the frame canonical (R39). -/
theorem renderLine_ok {l : Nat} {s : State} (h : s.fb.ok) (hl : l < Config.linesPerFrame) : (renderLine l s).fb.ok := by
  by_cases hv : l < Config.firstVisibleLine
  · rw [renderLine_hidden s hv]; exact h
  · have hl : l < 260 := hl
    rw [renderLine_visible s (by omega)]
    exact Frame.ok_setRow _ (Frame.ok_setRow _ h (show l - 20 < 240 by omega)) (show l - 20 < 240 by omega)

/-- What a rendered line shows depends on the registers and memories it reads alone (R189, R190, R220). -/
theorem renderLine_congr {s t : State} (l : Nat) (hx : s.scrollX = t.scrollX) (hc : s.ctrl = t.ctrl)
    (hn0 : s.nt0 = t.nt0) (hn1 : s.nt1 = t.nt1) (hp : s.pat = t.pat) (hl : s.pal = t.pal) (ho : s.oam = t.oam)
    (hg : s.params.rgb = t.params.rgb) (hf : s.fb = t.fb) : (renderLine l s).fb = (renderLine l t).fb := by
  by_cases h : l < Config.firstVisibleLine
  · rw [renderLine_hidden s h, renderLine_hidden t h, hf]
  · have hb : ∀ row, backgroundRow s row = backgroundRow t row := fun row => by
      have hF : ∀ a, fetch a s = fetch a t := fun a => fetch_congr a hp hn0 hn1 hl
      simp only [backgroundRow, bgOffset, scrolledColumn, tableOf, bgColourIndex, bgGroup, tileNumber, bgBase, hF,
        colourWord, palRead, hx, hc, hl, hg]
    rw [renderLine_visible s (by omega), renderLine_visible t (by omega), hb,
      spriteRowOver_congr _ _ ho (by rw [hc]) hp hl hg]
    simp only [setFrameRow, hf]

end Sys2Proof.Machine
end

