-- ==== Sys2Proof/Laws/Tick.lean ====
section
/-! SUPPORT. The three courses of a tick (R120, R123 to R125): within a line, at the end of a line, and at the end of a
frame. -/

namespace Sys2Proof.Machine

/-- Within a line only the timer moves. -/
theorem tick_within {s : State} (h : s.tickCounter ≠ 340) : tick s = { s with tickCounter := s.tickCounter + 1 } :=
  if_neg (show ¬ s.tickCounter + 1 = 341 by omega)

/-- The end of a line that is not the frame's last: the line is rendered, the timer moves on, and reaching line 20
clears `vblank`. -/
theorem tick_line {s : State} (h : s.tickCounter = 340) (hl : s.scanLine ≠ 259) :
    tick s = { s with
      fb := (renderLine s.scanLine s).fb, tickCounter := 0, scanLine := s.scanLine + 1
      vblank := if s.scanLine + 1 = 20 then false else s.vblank } := by
  have hr := renderLine_frame s.scanLine s
  generalize (renderLine s.scanLine s).fb = f at hr ⊢
  have h1 : s.tickCounter + 1 = 341 := by omega
  have h2 : ¬ s.scanLine + 1 = 260 := by omega
  simp only [tick, endOfLine, hr, if_pos h1, if_neg h2]
  by_cases h3 : s.scanLine + 1 = 20
  · simp only [if_pos h3]; rfl
  · simp only [if_neg h3]

/-- The end of a frame: the last line is rendered, the frame is presented, `vblank` is set and the interrupt is
signalled where it is enabled. -/
theorem tick_frame {s : State} (h : s.tickCounter = 340) (hl : s.scanLine = 259) :
    tick s = { s with
      fb := (renderLine 259 s).fb, tickCounter := 0, scanLine := 0, vblank := true, s0hit := false
      out := { s.out with
        events := s.out.events ++ (Event.present (renderLine 259 s).fb :: if s.ctrl.getLsbD 7 then [.nmi] else []) } } := by
  have hr := renderLine_frame 259 s
  generalize (renderLine 259 s).fb = f at hr ⊢
  have h1 : s.tickCounter + 1 = 341 := by omega
  have h2 : s.scanLine + 1 = 260 := by omega
  simp only [tick, endOfLine, hl, hr, if_pos h1, endOfFrame, nmiEnabled, frameEndFlags, emit]
  cases s.ctrl.getLsbD 7 <;> simp

/-- What a `TICK` that completes does: one of the three courses, outside the `Nmi` callback. -/
theorem execTick_next {s t : State} (h : execTick s = .next t) :
    s.halted = none ∧ s.inCallback = false ∧ t = tick (beginOp s) := by
  obtain ⟨hs, h⟩ := operation_next h
  cases hc : s.inCallback <;> simp [hc] at h
  exact ⟨hs, rfl, h.symm⟩

theorem execTick_running {s : State} (h : s.halted = none) (hc : s.inCallback = false) :
    execTick s = .next (tick (beginOp s)) := by
  rw [execTick, operation_running h]
  simp [hc]

end Sys2Proof.Machine
end

