-- ==== Sys2Proof/Laws/Run.lean ====
section
/-! SUPPORT. Running a sequence of operations: one operation at a time, and one part after another. -/

namespace Sys2Proof.Machine

theorem run_nil (s : State) : run [] s = some (s, []) := rfl

theorem run_cons {i : Instr} {is : List Instr} {s t : State} (h : exec i s = .next t) :
    run (i :: is) s = (run is t).map (fun p => (p.1, t.out.events ++ p.2)) := by
  simp only [run, h]
  cases run is t <;> rfl

theorem run_append (a b : List Instr) (s : State) :
    run (a ++ b) s = (run a s).bind (fun p => (run b p.1).map (fun q => (q.1, p.2 ++ q.2))) := by
  induction a generalizing s with
  | nil => simp [run]
  | cons i a ih =>
    rw [List.cons_append]
    simp only [run]
    cases exec i s with
    | next t =>
      simp only [ih]
      cases run a t with
      | none => simp
      | some p =>
        simp only [Option.bind_some]
        generalize run b p.1 = q
        cases q <;> simp
    | fault f => rfl
    | refused r => rfl

end Sys2Proof.Machine
end

