-- ==== Sys2Proof/Laws/Sprite.lean ====
section
/-! SUPPORT. Sprite memory is closed to everything but the DMA port and the sprite pass (R38, R78): what a body does does
not depend on it, and a write of any other target leaves it. -/

namespace Sys2Proof.Machine

/-- The outcome of a body with other contents in sprite memory. -/
def Res.withOam {α : Type} (m : Memory) : Res α → Res α
  | .done a s => .done a { s with oam := m }
  | .raised e s => .raised e { s with oam := m }
  | .refused r => .refused r

/-- An outcome that stays the same with `m` in sprite memory has `m` there. -/
theorem Res.oam_of_withOam {α : Type} {x : Res α} {m : Memory} (h : x = x.withOam m) :
    (∀ a u, x = .done a u → u.oam = m) ∧ ∀ e u, x = .raised e u → u.oam = m := by
  constructor <;> rintro _ u rfl <;> injection h with _ h <;> exact congrArg State.oam h

theorem memRead_oam (t : MemTarget) (off : Nat) (s : State) (m : Memory) :
    memRead t off { s with oam := m } = memRead t off s := by
  cases t <;> rfl

/-- A write of a memory target neither reads nor writes sprite memory. -/
theorem memWrite_oam (t : MemTarget) (off : Nat) (v : Byte) (s : State) (m : Memory) :
    memWrite t off v { s with oam := m } = (memWrite t off v s).map (fun u => { u with oam := m }) := by
  cases t with
  | pattern => simp only [memWrite]; split <;> [split; skip] <;> rfl
  | nameTable0 => simp only [memWrite]; split <;> rfl
  | nameTable1 => simp only [memWrite]; split <;> rfl
  | palette => simp only [memWrite]; split <;> rfl
  | platform id =>
    simp only [memWrite]
    split <;> [split; skip] <;> [split; skip; skip] <;> rfl

theorem videoRead_oam (a : VidAddr) (s : State) (m : Memory) :
    videoRead a { s with oam := m } = (videoRead a s).withOam m := by
  simp only [videoRead, busMemRead, memRead_oam]
  split
  · rfl
  · split <;> rfl

theorem videoWrite_oam (a : VidAddr) (v : Byte) (s : State) (m : Memory) :
    videoWrite a v { s with oam := m } = (videoWrite a v s).withOam m := by
  simp only [videoWrite, busMemWrite, memWrite_oam]
  split
  · rfl
  · next h _ => cases memWrite h.target (handlerOffset h (a.setWidth 16)) v s <;> rfl

theorem rdData_oam (s : State) (m : Memory) : rdData { s with oam := m } = (rdData s).withOam m := by
  simp only [rdData, videoRead_oam]
  split
  · cases videoRead s.vaddr s <;> rfl
  · rfl

theorem wrData_oam (d : Byte) (s : State) (m : Memory) : wrData d { s with oam := m } = (wrData d s).withOam m := by
  simp only [wrData, videoWrite_oam]
  split
  · cases videoWrite s.vaddr d s <;> rfl
  · rfl

theorem windowRead_oam (off : Nat) (s : State) (m : Memory) :
    windowRead off { s with oam := m } = (windowRead off s).withOam m := by
  unfold windowRead
  split
  · cases WindowPort.ofOffset (BitVec.ofNat 3 off) <;> first | exact rdData_oam s m | rfl
  · rfl

theorem windowWrite_oam (off : Nat) (d : Byte) (s : State) (m : Memory) :
    windowWrite off d { s with oam := m } = (windowWrite off d s).withOam m := by
  unfold windowWrite
  split
  · cases WindowPort.ofOffset (BitVec.ofNat 3 off) with
    | data => exact wrData_oam d s m
    | scroll => simp only [wrScroll]; split <;> rfl
    | address => simp only [wrAddr]; split <;> [split; skip] <;> rfl
    | _ => rfl
  · rfl

theorem sysRead_oam (a : SysAddr) (s : State) (m : Memory) :
    sysRead a { s with oam := m } = (sysRead a s).withOam m := by
  simp only [sysRead]
  split
  · rfl
  · next h _ =>
    cases h.target with
    | mem t => simp only [targetRead, memRead_oam]; split <;> rfl
    | window => exact windowRead_oam _ s m
    | dmaPort => simp only [targetRead, dmaPortRead]; split <;> rfl
    | device id => simp only [targetRead, deviceRead]; split <;> rfl

/-- A bus write whose handler is not the DMA port is the same whatever sprite memory holds, and leaves it. -/
theorem sysWrite_oam {a : SysAddr} (d : Byte) {s : State} (m : Memory)
    (hd : ∀ h, findHandler (sysMap s.params) a = some h → h.target ≠ .dmaPort) :
    sysWrite a d { s with oam := m } = (sysWrite a d s).withOam m := by
  simp only [sysWrite]
  split
  · rfl
  · next h hf =>
    cases ht : h.target with
    | mem t =>
      simp only [targetWrite, memWrite_oam]
      cases memWrite t (handlerOffset h a) d s <;> rfl
    | window => exact windowWrite_oam _ d s m
    | dmaPort => exact absurd ht (hd h hf)
    | device id => simp only [targetWrite, deviceWrite]; split <;> rfl

/-- Two outcomes that differ in sprite memory at most. -/
def Res.sameButOam {α : Type} (x y : Res α) : Prop :=
  match x with
  | .done a s => ∃ o, y = .done a { s with oam := o }
  | .raised e s => ∃ o, y = .raised e { s with oam := o }
  | .refused r => y = .refused r

theorem Res.sameButOam_withOam {α : Type} (x : Res α) (m : Memory) : x.sameButOam (x.withOam m) := by
  cases x with
  | done a s => exact ⟨m, rfl⟩
  | raised e s => exact ⟨m, rfl⟩
  | refused r => rfl

/-- What a DMA copy reads and how it ends does not depend on sprite memory. -/
theorem dmaCopy_oam (page : Byte) {n i : Nat} (hn : i + n ≤ 256) (s : State) (m : Memory) :
    (dmaCopy page n i s).sameButOam (dmaCopy page n i { s with oam := m }) := by
  induction n generalizing i s m with
  | zero => exact ⟨m, rfl⟩
  | succ n ih =>
    rw [dmaCopy, dmaCopy, sysRead_oam _ s m]
    cases sysRead (dmaSource page i) s with
    | raised e t => exact ⟨m, rfl⟩
    | refused r => rfl
    | done b t =>
      simp only [Res.withOam, dmaStore_done b _ (show i < 256 by omega)]
      exact ih (by omega) _ _

end Sys2Proof.Machine
end

