-- ==== Sys2Proof/Tests/Slice0.lean ====
section
/-! SUPPORT. The model's own tests. Expected values come from 95_test_vectors.md (the vector is named in each section) or
are written out from the rules by hand. Witness theorems show that the hypotheses of the statements can be met. -/

namespace Sys2Proof.Tests

open Sys2Proof.Machine

/-! ## Helpers -/

/-- The operation completes in a state that satisfies `p`. -/
def completes (i : Instr) (s : State) (p : State → Bool) : Bool :=
  match exec i s with
  | .next t => p t
  | .fault _ => false
  | .refused _ => false

/-- The sequence runs to a state that satisfies `p`. -/
def runs (is : List Instr) (s : State) (p : State → Bool) : Bool :=
  match run is s with
  | some (t, _) => p t
  | none => false

/-- The operation is refused for a reason. -/
def refuses (i : Instr) (s : State) (r : Refusal) : Bool :=
  match exec i s with
  | .next _ => false
  | .fault _ => false
  | .refused q => q = r

/-- The operation hands out the error and records it, and leaves the video address and the latch. -/
def violates (i : Instr) (e : Err) : Bool :=
  completes i State.reset (fun t => t.out.error == some e && t.halted == some e && t.out.data == none && t.diagCount == 0)

/-- Reset with the timer and the control register set. -/
def timerAt (c l : Nat) (ctrl : Byte) : State := { State.reset with tickCounter := c, scanLine := l, ctrl := ctrl }

/-- Reset with a settled video address. -/
def at' (a : VidAddr) (ctrl : Byte) : State := { State.reset with vaddr := a, vaddrKnown := true, ctrl := ctrl }

/-- Reset with a parameter list of downgraded addresses. -/
def benign (l : List SysAddr) : State := { State.reset with params := { resetParams with benign := l } }

/-! ## WellFormed: an ill-formed term for each check (R109, R290, R61) -/

theorem test_wf_class : Ppu16.classDefined 0xC000#16 = false ∧ decode (.ppu16 0xC000#16) = none := by decide
theorem test_wf_rsv : Ppu16.rsvClear 0x4880#16 = false ∧ decode (.ppu16 0x4880#16) = none := by decide
theorem test_wf_data_read : Ppu16.dataClear 0x6201#16 = false ∧ decode (.ppu16 0x6201#16) = none := by decide
theorem test_wf_data_tick : Ppu16.dataClear 0x0001#16 = false ∧ decode (.ppu16 0x0001#16) = none := by decide
theorem test_wf_dma_off : Ppu16.dmaOffClear 0x8102#16 = false ∧ decode (.ppu16 0x8102#16) = none := by decide
theorem test_wf_tick_dir : Ppu16.tickZero 0x2000#16 = false ∧ decode (.ppu16 0x2000#16) = none := by decide
theorem test_wf_tick_off : Ppu16.tickZero 0x0100#16 = false ∧ decode (.ppu16 0x0100#16) = none := by decide
theorem test_wf_bus25 : Bus25.wellFormed 0x1200201#25 = false ∧ decode (.bus25 0x1200201#25) = none := by decide
theorem test_wf_ppu16 : OpWord.wellFormed (.ppu16 0xC000#16) = false := by decide
theorem test_wf_chr (b : Byte) : chrFits (List.replicate 8193 b) = false := by
  rw [chrFits, List.length_replicate]
  rfl
theorem test_wf_window : handlerFits [] ⟨0x2000, 9, .window⟩ = false := by decide
theorem test_wf_dmaPort : handlerFits [] ⟨0x4014, 2, .dmaPort⟩ = false := by decide
theorem test_wf_memory : handlerFits [] ⟨0x5000, 0x0021, .mem .palette⟩ = false := by decide
theorem test_wf_absent : handlerFits [0x800] ⟨0x0000, 1, .mem (.platform 1)⟩ = false := by decide
theorem test_wf_handlers : sysHandlersFit [0x800] [⟨0, 0x800, .mem (.platform 0)⟩, ⟨0x9000, 9, .window⟩] = false := by
  decide

/-! ## Decoding: one word per constructor, written out from R101 to R105 (cls dir rsv off data; dir addr data) -/

theorem test_decode_tick : decode (.ppu16 0b00_0_00_000_00000000#16) = some .tick := by decide
theorem test_decode_wrCtrl : decode (.ppu16 0b01_0_00_000_10000000#16) = some (.wrCtrl 0x80) := by decide
theorem test_decode_wrMask : decode (.ppu16 0b01_0_00_001_00011110#16) = some (.wrMask 0x1E) := by decide
theorem test_decode_wrStatus : decode (.ppu16 0b01_0_00_010_01010101#16) = some (.wrStatus 0x55) := by decide
theorem test_decode_wrOamaddr : decode (.ppu16 0b01_0_00_011_00010000#16) = some (.wrOamaddr 0x10) := by decide
theorem test_decode_wrOamdata : decode (.ppu16 0b01_0_00_100_01010101#16) = some (.wrOamdata 0x55) := by decide
theorem test_decode_wrScroll : decode (.ppu16 0b01_0_00_101_00001000#16) = some (.wrScroll 0x08) := by decide
theorem test_decode_wrAddr : decode (.ppu16 0b01_0_00_110_11111111#16) = some (.wrAddr 0xFF) := by decide
theorem test_decode_wrData : decode (.ppu16 0b01_0_00_111_00100001#16) = some (.wrData 0x21) := by decide
theorem test_decode_rdCtrl : decode (.ppu16 0b01_1_00_000_00000000#16) = some .rdCtrl := by decide
theorem test_decode_rdMask : decode (.ppu16 0b01_1_00_001_00000000#16) = some .rdMask := by decide
theorem test_decode_rdStatus : decode (.ppu16 0b01_1_00_010_00000000#16) = some .rdStatus := by decide
theorem test_decode_rdOamaddr : decode (.ppu16 0b01_1_00_011_00000000#16) = some .rdOamaddr := by decide
theorem test_decode_rdOamdata : decode (.ppu16 0b01_1_00_100_00000000#16) = some .rdOamdata := by decide
theorem test_decode_rdScroll : decode (.ppu16 0b01_1_00_101_00000000#16) = some .rdScroll := by decide
theorem test_decode_rdAddr : decode (.ppu16 0b01_1_00_110_00000000#16) = some .rdAddr := by decide
theorem test_decode_rdData : decode (.ppu16 0b01_1_00_111_00000000#16) = some .rdData := by decide
theorem test_decode_wrDma : decode (.ppu16 0b10_0_00_000_00000010#16) = some (.wrDma 0x02) := by decide
theorem test_decode_rdDma : decode (.ppu16 0b10_1_00_000_00000000#16) = some .rdDma := by decide
theorem test_decode_busWr : decode (.bus25 0b0_0010000000000110_00111111#25) = some (.busWr 0x2006 0x3F) := by decide
theorem test_decode_busRd : decode (.bus25 0b1_0010000000000010_00000000#25) = some (.busRd 0x2002) := by decide

/-- Numbered as the opcode table numbers them, a word runs as the next step. -/
theorem test_withFetchWord :
    decodeTableWord 16 0x4080 = some (.wrCtrl 0x80) ∧
    nextInput (State.reset.withFetchWord 16 0x4080) = .instr (.wrCtrl 0x80) State.reset := ⟨by decide, rfl⟩

/-! ## Tick: L2-T -/

theorem test_tick_T1 : completes .tick (timerAt 0 0 0) (fun t => t.tickCounter == 1 && t.scanLine == 0) = true := by decide
theorem test_tick_T3 : completes .tick { timerAt 340 19 0 with vblank := true }
    (fun t => t.tickCounter == 0 && t.scanLine == 20 && !t.vblank) = true := by decide
theorem test_tick_T11 : refuses .tick { timerAt 0 0 0x80 with inCallback := true } .reentrantTick = true := by decide
/-- T5, T6: what ends a frame, without the row rendered there. -/
theorem test_endOfFrame_T5 : (endOfFrame (timerAt 0 260 0x80)).out.events.getLast? = some .nmi ∧
    (endOfFrame (timerAt 0 260 0x80)).scanLine = 0 ∧ (endOfFrame (timerAt 0 260 0x80)).vblank = true ∧
    (endOfFrame (timerAt 0 260 0x7F)).out.events.length = 1 := by
  refine ⟨rfl, rfl, rfl, rfl⟩

/-! ## Register window: L2-R, L1-4 -/

theorem test_wrCtrl_R1 : completes (.wrCtrl 0x80) State.reset (fun t => t.ctrl == 0x80 && !t.w) = true := by decide
theorem test_wrMask : completes (.wrMask 0x1E) State.reset (fun t => t.mask == 0x1E && t.ctrl == 0) = true := by decide
theorem test_rdStatus_R3_R4 : completes .rdStatus { State.reset with vblank := true, w := true }
    (fun t => t.out.data == some 0x80 && !t.vblank && !t.w && t.diagCount == 1 &&
      completes .rdStatus t (fun u => u.out.data == some 0x00 && u.diagCount == 2)) = true := by decide
theorem test_rdStatus_R5_R6 :
    (statusValue { State.reset with vblank := true, params := { resetParams with diag := .alternate 0x01 true } } = 0x81) ∧
    (statusValue { State.reset with diagCount := 1, params := { resetParams with diag := .alternate 0x01 false } } = 0x01) := by
  decide
theorem test_wrScroll_R7 : runs [.wrScroll 0x08, .wrScroll 0x10] State.reset
    (fun t => t.scrollX == 0x08 && t.scrollY == 0x10 && !t.w) = true := by decide
theorem test_wrScroll_R10 : runs [.wrScroll 0x05, .wrAddr 0x20] State.reset
    (fun t => t.scrollX == 0x05 && !t.vaddrKnown && !t.w && refuses .rdData t .unsettledAddress) = true := by decide
theorem test_wrAddr_R8 : runs [.wrAddr 0xFF, .wrAddr 0xFF] State.reset
    (fun t => t.vaddr == 0x3FFF && t.vaddrKnown && !t.w) = true := by decide
theorem test_wrAddr_L1_4 : runs [.wrAddr 0x7F, .wrAddr 0x12, .wrAddr 0x21, .wrAddr 0x05] State.reset
    (fun t => t.vaddr == 0x2105) = true := by decide
theorem test_wrData_R13 : completes (.wrData 0x11) (at' 0x2000 0x04)
    (fun t => t.nt0 == [(0, 0x11)] && t.vaddr == 0x2020) = true := by decide
theorem test_wrData_R15 : completes (.wrData 0x21) (at' 0x3F10 0x00)
    (fun t => t.pal == [(0, 0x21)] && t.vaddr == 0x3F11) = true := by decide
theorem test_wrData_R19 : refuses (.wrData 0x01)
    { at' 0x1000 0 with params := { resetParams with patternWritable := false } } .patternWrite = true := by decide
theorem test_rdData_L1_5 : completes .rdData { at' 0x2005 0 with nt0 := [(5, 0x9C)] }
    (fun t => t.out.data == some 0x00 && t.readBuf == 0x9C && t.vaddr == 0x2006) = true := by decide
theorem test_rdData_R17 : completes .rdData { at' 0x2800 0 with readBuf := 0x77 }
    (fun t => t.halted == some (.unmappedAddress 0x2800) && t.readBuf == 0x77 && t.vaddr == 0x2800) = true := by decide
theorem test_wrOamaddr_R22 : completes (.wrOamaddr 0x10) { State.reset with oam := [(3, 0x44)] }
    (fun t => t.oam == [(3, 0x44)] && t.halted == none) = true := by decide
theorem test_wrOamdata_R22 : completes (.wrOamdata 0x55) { State.reset with oam := [(3, 0x44)] }
    (fun t => t.oam == [(3, 0x44)] && t.halted == none) = true := by decide
theorem test_wrStatus_R25 : violates (.wrStatus 0x00) (.protocolViolation (.window .status) .write) = true := by decide
theorem test_rdCtrl_R23 : violates .rdCtrl (.protocolViolation (.window .control) .read) = true := by decide
theorem test_rdMask : violates .rdMask (.protocolViolation (.window .mask) .read) = true := by decide
theorem test_rdOamaddr : violates .rdOamaddr (.protocolViolation (.window .oamAddr) .read) = true := by decide
theorem test_rdOamdata_R24 : violates .rdOamdata (.protocolViolation (.window .oamData) .read) = true := by decide
theorem test_rdScroll : violates .rdScroll (.protocolViolation (.window .scroll) .read) = true := by decide
theorem test_rdAddr : violates .rdAddr (.protocolViolation (.window .address) .read) = true := by decide

/-! ## Palette: L1-3 -/

theorem test_palette_L1_3 : palRead 0x00 (palWrite 0x10 0x2C State.reset) = 0x2C ∧
    palRead 0x1C (palWrite 0x0C 0x07 State.reset) = 0x07 ∧ palRead 0x00 (palWrite 0x11 0x21 State.reset) = 0x00 := by
  decide

/-! ## Background: L2-B -/

/-- The common set-up of B1 to B3. -/
def bgState : State :=
  { State.reset with nt0 := [(89, 0x03), (0x3C6, 0xE4)], pat := [(0x31, 0x80), (0x39, 0x80)], pal := [(0, 0x0F), (11, 0x56)] }

theorem test_background_B1_B2_B3 : bgOffset bgState 17 200 = 11 ∧ palRead 11 bgState = 0x56 ∧
    bgOffset bgState 17 201 = 0 ∧ bgOffset bgState 18 200 = 0 := by decide +kernel
theorem test_background_B5_B6_B7 :
    tableOf { State.reset with scrollX := 0x10 } (scrolledColumn { State.reset with scrollX := 0x10 } 250) = 1 ∧
    tableOf { State.reset with ctrl := 0x01 } (scrolledColumn State.reset 0) = 1 ∧
    tableOf { State.reset with ctrl := 0x01, scrollX := 0x10 } 266 = 0 ∧ tileAddr 1 0 10 = 0x2401 := by decide +kernel
theorem test_background_B8_B13 : lowPlaneAddr (bgBase { State.reset with ctrl := 0x10 }) 0xFF 7 = 0x1FF7 ∧
    highPlaneAddr 0x1000 0xFF 7 = 0x1FFF ∧ tileIndex 239 255 = 959 ∧ attrAddr 0 239 255 = 0x23FF := by decide +kernel
theorem test_background_B10_B11_B12 : paletteGroup 0xE4 0 0 = 0 ∧ paletteGroup 0xE4 0 16 = 1 ∧
    paletteGroup 0xE4 16 0 = 2 ∧ paletteGroup 0xE4 16 16 = 3 ∧ bgPaletteOffset 0 3 = 0 ∧ bgPaletteOffset 2 1 = 6 := by decide

/-! ## Sprites: L2-S -/

/-- The common set-up of the section, for one entry with its four bytes. -/
def sprState (y t a x : Byte) : State :=
  { State.reset with ctrl := 0x08, pat := [(0x1021, 0xC0), (0x1029, 0x40)], oam := [(0, y), (1, t), (2, a), (3, x)] }

theorem test_sprite_S1 : spriteColourIndex (sprState 100 2 0x00 50) 0 101 0 = 1 ∧
    spriteColourIndex (sprState 100 2 0x00 50) 0 101 1 = 3 ∧ spriteColourIndex (sprState 100 2 0x00 50) 0 101 2 = 0 ∧
    sprPaletteOffset 1 0x00 = 0x11 ∧ sprPaletteOffset 3 0x00 = 0x13 := by decide +kernel
theorem test_sprite_S2_S3_S4 : spriteColourIndex (sprState 100 2 0x40 50) 0 101 6 = 3 ∧
    spriteColourIndex (sprState 100 2 0x40 50) 0 101 7 = 1 ∧ spriteRow 100 101 0x80 = 6 ∧
    spriteColourIndex (sprState 100 2 0x80 50) 0 101 0 = 0 ∧ sprPaletteOffset 1 0x03 = 0x1D := by decide +kernel
theorem test_sprite_S7_S8_S9 : inRange 100 100 = true ∧ inRange 100 107 = true ∧ inRange 100 108 = false ∧
    inRange 233 239 = true ∧ spriteRow 233 239 0x00 = 6 ∧ inRange 240 239 = false := by decide

/-! ## DMA and bus: L2-D, L2-M, L1-1, L1-2 -/

theorem test_wrDma_D4 : completes (.wrDma 0x20) State.reset
    (fun t => t.halted == some (.protocolViolation (.window .control) .read) && t.oam == []) = true := by decide +kernel
theorem test_wrDma_D3 : completes (.wrDma 0x60)
    { State.reset with regions := State.reset.regions.set 1 ⟨.ram, 0x80, [(0, 0xAA), (127, 0xAA)]⟩ }
    (fun t => t.halted == some (.unmappedAddress 0x6080) && t.oam == [(0, 0xAA), (127, 0xAA)]) = true := by decide +kernel
theorem test_rdDma_D6 : violates .rdDma (.protocolViolation .dma .read) = true ∧
    violates (.busRd 0x4014) (.protocolViolation .dma .read) = true := by decide
theorem test_busWr_M1_M5 : completes (.busWr 0x2000 0x80) State.reset (fun t => t.ctrl == 0x80) = true ∧
    refuses (.busWr 0x8000 0x12) State.reset .romWrite = true := by decide
theorem test_busRd_M4_M6 : violates (.busRd 0x2008) (.unmappedAddress 0x2008) = true ∧
    completes (.busRd 0x07FF) { State.reset with regions := [⟨.ram, 0x800, [(0x7FF, 0x5A)]⟩] }
      (fun t => t.out.data == some 0x5A) = true := by decide
theorem test_lookup_L1_1_M8_M9 :
    (findHandler [⟨0x1000, 0x0100, .mem .palette⟩, ⟨0x1000, 0x1000, Target.window⟩] 0x1080).map (·.target)
      = some (.mem .palette) ∧
    findHandler [(⟨0xFFF0, 0x0020, .window⟩ : Handler Target)] 0xFFFF = some ⟨0xFFF0, 0x0020, .window⟩ ∧
    findHandler [(⟨0xFFF0, 0x0020, .window⟩ : Handler Target)] 0x0000 = none ∧
    findHandler [(⟨0x1000, 0, .window⟩ : Handler Target)] 0x1000 = none := by decide

/-! ## Errors and construction: L2-X -/

theorem test_halted_X1 : completes .rdCtrl State.reset (fun t =>
    match exec .tick t with
    | .fault (.halted e) => e == .protocolViolation (.window .control) .read
    | _ => false) = true := by decide
theorem test_benign_X2 : completes (.busWr 0x4000 0x00) (benign [0x4000])
    (fun t => t.halted == none && t.out.error == some (.unmappedAddress 0x4000) &&
      completes .tick t (fun u => u.tickCounter == 1)) = true := by decide
theorem test_benign_X3 : completes (.busRd 0x4000) (benign [0x4000])
    (fun t => t.halted == none && t.out.data.isSome && t.draws == (benign []).draws + 1) = true := by decide
theorem test_construct_X5 : (constructed [0x01, 0x02, 0x03] State.reset).pat = [(0, 1), (1, 2), (2, 3)] ∧
    (constructed [] { State.reset with diagCount := 2 }).diagCount = 2 := by decide
theorem test_asm_R111 : (Instr.busWr 0x2006 0x3F).asm = "BUS_WR 0x2006, 0x3F" ∧ (Instr.wrCtrl 0x80).asm = "WR_CTRL 0x80" := by
  decide +kernel

/-! ## Witnesses: the hypotheses of the statements can be met, each clause at a boundary of its range -/

/-- EncodeOfDecode, StepRunsTheDecodedOperation. -/
theorem witness_decoded : decode (.bus25 0x1FFFF00#25) = some (.busRd 0xFFFF) ∧
    (issue (.bus25 0x1FFFF00#25) State.reset).inbox = .op (.bus25 0x1FFFF00#25) :: [] ∧
    ({ State.reset with inbox := [.nested (.ppu16 0x4080#16)] } : State).inbox = .nested (.ppu16 0x4080#16) :: [] :=
  ⟨by decide, rfl, rfl⟩

/-- StepOnNoInputOrReservedWord: no input; a reserved word, in a running block and in a halted one. -/
theorem witness_noInput : State.reset.inbox = [] ∧ decode (.ppu16 0xFFFF#16) = none ∧
    (issue (.ppu16 0xFFFF#16) State.reset).halted = none ∧
    ({ issue (.ppu16 0xFFFF#16) State.reset with halted := some (.unmappedAddress 0) } : State).halted
      = some (.unmappedAddress 0) := ⟨rfl, by decide, rfl, rfl⟩

/-- StepConstructsTheBlock: the longest blob that is admitted and the shortest that is not. -/
theorem witness_construct (b : Byte) : (List.replicate 8192 b).length ≤ 8192 ∧ 8192 < (List.replicate 8193 b).length := by
  rw [List.length_replicate, List.length_replicate]
  omega

/-- A state at the last tick of a frame, every row written, with a `TICK` waiting. -/
def frameEnd : State :=
  { timerAt 340 259 0x80 with
    fb := { draw := 0, rows := (List.range 240).map (fun r => (r, Vector.replicate 256 0)) }
    inbox := [.op (.ppu16 0x0000#16)] }

theorem frameEnd_row {r : Nat} (h : r < 240) : (frameEnd.fb.row? r).isSome = true := by
  rw [Frame.row?, Option.isSome_map, List.find?_isSome]
  exact ⟨(r, Vector.replicate 256 0), List.mem_map.2 ⟨r, List.mem_range.2 h, rfl⟩, by simp⟩

/-- StepKeepsTheInvariant, PresentedFrameIsComplete: a state that meets the invariant and presents a frame. -/
theorem witness_invariant : frameEnd.Inv where
  timer := by decide
  pat := Memory.ok_nil _
  nt0 := Memory.ok_nil _
  nt1 := Memory.ok_nil _
  pal := Memory.ok_nil _
  oam := Memory.ok_nil _
  palLive := fun c hc => absurd hc List.not_mem_nil
  regions := by decide
  frame := by
    refine ⟨List.pairwise_map.2 List.pairwise_lt_range, fun e he => ?_⟩
    obtain ⟨r, hr, rfl⟩ := List.mem_map.1 he
    exact List.mem_range.1 hr
  rendered := fun r hr => frameEnd_row (show r < 240 by have : r + 20 < 259 := hr; omega)
  s0hit := rfl
  toggle := fun h => absurd h (by decide)

theorem witness_presents : ∃ t f, step frameEnd = .next t ∧ frameEnd.inbox ≠ [] ∧ .present f ∈ t.out.events := by
  have h : step frameEnd = execTick { frameEnd with inbox := [], inCallback := false } := rfl
  rw [h, execTick_running rfl rfl, tick_frame rfl rfl]
  exact ⟨_, _, rfl, List.cons_ne_nil _ _, List.mem_cons_self⟩

/-- NmiOnlyAtTheFrameEnd: a tick that emits `Nmi`. -/
theorem witness_nmi : ∃ t, exec .tick (timerAt 340 259 0x80) = .next t ∧ Event.nmi ∈ t.out.events := by
  refine ⟨_, (execTick_running rfl rfl).trans (congrArg _ (tick_frame rfl rfl)), ?_⟩
  exact List.mem_cons_of_mem _ (List.mem_singleton.2 rfl)

/-- HaltedBlockHasNoStep, StepKeepsParametersAndFatalError: a halted block, and a construction out of it. -/
theorem witness_halted : ({ State.reset with halted := some (.protocolViolation .dma .read) } : State).halted
      = some (.protocolViolation .dma .read) ∧
    ∃ t, step { State.reset with halted := some (.protocolViolation .dma .read), inbox := [.construct []] } = .next t :=
  ⟨rfl, _, rfl⟩

/-- OnlyTickAdvancesTheTimer. -/
theorem witness_notTick : Instr.wrCtrl 0x80 ≠ .tick ∧ ∃ t, exec (.wrCtrl 0x80) (timerAt 17 42 0) = .next t :=
  ⟨by decide, _, rfl⟩

/-- RaisingChangesNoState: a port violation, and an unmapped access over the bus. -/
theorem witness_raises : completes .rdCtrl State.reset (fun t => t.out.error.isSome) = true ∧
    completes (.busWr 0x5000 0) State.reset (fun t => t.out.error.isSome) = true ∧
    findHandler (sysMap State.reset.params) 0x5000 = none := by decide

/-- OnlyTheDmaPortWritesSpriteMemory: a next state of a port write, and of each operation that reaches the DMA port. -/
theorem witness_spriteWrites : completes (.wrOamdata 0x55) State.reset (fun _ => true) = true ∧
    completes (.wrDma 0x20) State.reset (fun _ => true) = true ∧
    completes (.busWr 0x4014 0x20) State.reset (fun _ => true) = true ∧
    findHandler (sysMap State.reset.params) 0x4014 = some ⟨0x4014, 1, .dmaPort⟩ := by decide

/-- NoOperationButTickDependsOnSpriteMemory: an operation other than `TICK` for each of the three ways to end. -/
theorem witness_spriteReads : Instr.rdData ≠ .tick ∧ completes .rdData (at' 0x27FF 0) (fun _ => true) = true ∧
    exec .rdData { State.reset with halted := some (.protocolViolation .dma .read) } =
      .fault (.halted (.protocolViolation .dma .read)) ∧
    exec .rdData State.reset = .refused .unsettledAddress :=
  ⟨by decide, by decide, rfl, rfl⟩

/-- NoOffsetIsOutOfRange: the platform map of 95_test_vectors.md. -/
theorem witness_handlersFit :
    sysHandlersFit (State.reset.regions.map (·.size)) State.reset.params.sysHandlers = true := by decide

/-- TickCourses, LineOf341Ticks, FrameOf88660Ticks: each course, at its boundary. -/
theorem witness_tick : (timerAt 339 259 0).halted = none ∧ (timerAt 339 259 0).inCallback = false ∧
    (timerAt 339 259 0).tickCounter ≠ 340 ∧ (timerAt 340 258 0).tickCounter = 340 ∧ (timerAt 340 258 0).scanLine ≠ 259 ∧
    (timerAt 340 259 0).scanLine = 259 ∧ (timerAt 0 258 0).scanLine < 259 ∧ State.reset.tickCounter = 0 ∧
    State.reset.scanLine = 0 := by decide

/-- ReentrantTickIsRefused. -/
theorem witness_nested : ({ State.reset with inCallback := true } : State).halted = none ∧
    ({ State.reset with inCallback := true } : State).inCallback = true := ⟨rfl, rfl⟩

/-- SpritePixel: an opaque pixel of entry 0 at column 50 (L2-S S1) with every later entry transparent there, and a
column, 52, where every entry is transparent. -/
theorem witness_sprite : Reference.sprIndex (sprState 100 2 0 50) 0 101 50 ≠ 0 ∧
    (∀ m : Fin 64, 0 < m.val → Reference.sprIndex (sprState 100 2 0 50) m.val 101 50 = 0) ∧
    (∀ m : Fin 64, Reference.sprIndex (sprState 100 2 0 50) m.val 101 52 = 0) := by decide +kernel

/-- BackgroundDependsOnlyOn, SpritesDependOnlyOn: two states that differ in what the passes ignore. -/
theorem witness_ignored : State.reset ≠ { State.reset with mask := 0x1E, scrollY := 0x10, ctrl := 0xE6 } ∧
    (0xE6 : Byte).getLsbD 0 = State.reset.ctrl.getLsbD 0 ∧ (0xE6 : Byte).getLsbD 4 = State.reset.ctrl.getLsbD 4 ∧
    (0xE6 : Byte).getLsbD 3 = State.reset.ctrl.getLsbD 3 :=
  ⟨fun h => absurd (congrArg State.mask h) (by decide), by decide, by decide, by decide⟩

/-- RendererAddressesAreMapped and the rows and columns of the two pixel statements: the last row and column. -/
theorem witness_rows : (1 < 2 ∧ 239 < 240 ∧ 255 < 256 ∧ 7 < 8) ∧ 259 < 260 ∧ 19 < 20 ∧ 20 ≤ 20 := by decide

/-- ControlWriteStoresTheByte, MaskWriteHasNoEffectOnRendering, OamPortWritesChangeNothing, StatusRead, PortViolations,
DmaPortReadIsAViolation, and ScrollWrite and AddressWrite in each phase. -/
theorem witness_running : State.reset.halted = none ∧ State.reset.w = false ∧
    ({ State.reset with w := true, addrHiValid := true } : State).w = true ∧
    ({ State.reset with w := true, addrHiValid := true } : State).addrHiValid = true ∧
    ({ State.reset with w := true } : State).addrHiValid = false := ⟨rfl, rfl, rfl, rfl, rfl⟩

/-- DataRead, DataWrite, DataAccessUnmapped: settled addresses at each end of each range, and an unsettled one. -/
theorem witness_data : (at' 0x27FF 0).halted = none ∧ (at' 0x27FF 0).vaddrKnown = true ∧ State.reset.vaddrKnown = false ∧
    Reference.videoMapped 0x0000 = true ∧ Reference.videoMapped 0x27FF = true ∧ Reference.videoMapped 0x3F00 = true ∧
    Reference.videoMapped 0x3F1F = true ∧ Reference.videoMapped 0x2800 = false ∧ Reference.videoMapped 0x3EFF = false ∧
    Reference.videoMapped 0x3F20 = false ∧ Reference.videoMapped 0x3FFF = false ∧
    (benign [0x3FFF]).params.benign.contains 0x3FFF = true ∧ State.reset.params.benign.contains 0x3FFF = false ∧
    ({ at' 0x1FFF 0 with params := { resetParams with patternWritable := false } } : State).params.patternWritable = false ∧
    (at' 0x1FFF 0).params.patternWritable = true := by decide

/-- ToggleLaw, AddressLaw, ReadAheadLaw: the address pair `0x27, 0xFE` with both reads mapped. -/
theorem witness_laws : State.reset.halted = none ∧ State.reset.w = false ∧ (0x27 * 256 + 0xFE) % 0x4000 = 0x27FE ∧
    Reference.videoMapped 0x27FE = true ∧ Reference.videoMapped ((0x27FE + Reference.inc State.reset) % 0x4000) = true := by
  decide

/-- BusRoutesToPorts: the last port of the window, and the DMA port outside the window. -/
theorem witness_routes : (0x2007 : SysAddr).toNat = State.reset.params.ppuBase.toNat + (7 : BitVec 3).toNat ∧
    (0x4014 : SysAddr) = State.reset.params.dmaPort ∧
    ¬ (State.reset.params.ppuBase.toNat ≤ (0x4014 : SysAddr).toNat ∧
      (0x4014 : SysAddr).toNat < State.reset.params.ppuBase.toNat + 8) := by decide

/-- BusAccessUnmapped: the first address past a region, fatal and downgraded. -/
theorem witness_unmapped : findHandler (sysMap State.reset.params) 0x0800 = none ∧
    State.reset.params.benign.contains 0x0800 = false ∧ (benign [0x0800]).params.benign.contains 0x0800 = true ∧
    findHandler (sysMap (benign [0x0800]).params) 0x0800 = none := by decide

/-- BusReachesPlatformRegions: the last byte of a RAM region and of a ROM region. -/
theorem witness_regions :
    findHandler (sysMap State.reset.params) 0x07FF = some ⟨0x0000, 0x0800, .mem (.platform 0)⟩ ∧
    State.reset.regions[0]? = some ⟨.ram, 0x0800, []⟩ ∧ 0x07FF - 0 < 0x0800 ∧
    findHandler (sysMap State.reset.params) 0xFFFF = some ⟨0x8000, 0x8000, .mem (.platform 2)⟩ ∧
    State.reset.regions[2]? = some ⟨.rom, 0x8000, []⟩ ∧ 0xFFFF - 0x8000 < 0x8000 := by decide

/-- A platform that lends palette memory and has a device. -/
def lending : State :=
  { State.reset with
    params := { resetParams with sysHandlers := [⟨0x5000, 0x0020, .mem .palette⟩, ⟨0x6000, 1, .device 7⟩] } }

/-- BusReachesMemoriesAndDevices: each clause. -/
theorem witness_lending : findHandler (sysMap lending.params) 0x501F = some ⟨0x5000, 0x0020, .mem .palette⟩ ∧
    (∃ b, memRead .palette (0x501F - 0x5000) lending = .ok b) ∧
    (∃ t, memWrite .palette (0x501F - 0x5000) 0x21 lending = .ok t) ∧
    findHandler (sysMap lending.params) 0x6000 = some ⟨0x6000, 1, .device 7⟩ :=
  ⟨by decide, ⟨_, rfl⟩, ⟨_, rfl⟩, by decide⟩

/-- DmaCopiesThePage, DmaFrame: page `0x02` lies in RAM (L2-D D1). -/
theorem witness_dma : (∀ k : Fin 256, findHandler (sysMap State.reset.params) (BitVec.ofNat 16 ((0x02 : Byte).toNat * 256 + k)) =
      some ⟨0x0000, 0x0800, .mem (.platform 0)⟩) ∧
    ∀ k, k < 256 → memRead (.platform 0) ((0x02 : Byte).toNat * 256 + k - (0 : SysAddr).toNat) State.reset = .ok 0 := by
  refine ⟨by decide +kernel, fun k hk => ?_⟩
  exact if_pos (show 512 + k - 0 < 2048 by omega)

/-- DmaStopsAtTheFirstUnmappedByte: page `0x60`, byte 128 (L2-D D3). -/
theorem witness_dmaStops : (∀ k : Fin 128, findHandler (sysMap State.reset.params) (BitVec.ofNat 16 ((0x60 : Byte).toNat * 256 + k)) =
      some ⟨0x6000, 0x0080, .mem (.platform 1)⟩) ∧
    (∀ k, k < 128 → memRead (.platform 1) ((0x60 : Byte).toNat * 256 + k - (0x6000 : SysAddr).toNat) State.reset = .ok 0) ∧
    findHandler (sysMap State.reset.params) (BitVec.ofNat 16 ((0x60 : Byte).toNat * 256 + 128)) = none := by
  refine ⟨by decide +kernel, fun k hk => ?_, by decide⟩
  have e : (0x60 : Byte).toNat * 256 + k - (0x6000 : SysAddr).toNat = k := by
    rw [show (0x60 : Byte).toNat = 96 from rfl, show (0x6000 : SysAddr).toNat = 96 * 256 from rfl]
    omega
  rw [e]
  exact if_pos hk

/-- DmaOfTheWindowPageRaises: page `0x20` (L2-D D4). -/
theorem witness_dmaWindow : State.reset.params.ppuBase.toNat = (0x20 : Byte).toNat * 256 := by decide

end Sys2Proof.Tests
end

/-! # The proofs of the state family (10_state.md)

What an operation other than `TICK` can do is said once, by `OpEffect` and `exec_effect`; what a step can do, by
`step_next`. The statements of the family follow from the two and from the three courses of a tick. -/

namespace Sys2Proof.Machine

/-! ## The bodies of the operations -/

/-- The body of every operation but `TICK`: a write or a read of the register window, of the DMA port or of the system
bus (R104, R105). -/
inductive ExecView : Instr → (State → Host.Outcome State Fault Refusal) → Prop
  | portWrite {i : Instr} (off : Nat) (d : Byte) : ExecView i (runWrite (windowWrite off d))
  | portRead {i : Instr} (off : Nat) : ExecView i (runRead (windowRead off))
  | dmaWrite (page : Byte) : ExecView (.wrDma page) (runWrite (wrDma page))
  | dmaRead : ExecView .rdDma (runRead (dmaPortRead 0))
  | busWrite (a : SysAddr) (d : Byte) : ExecView (.busWr a d) (runWrite (sysWrite a d))
  | busRead (a : SysAddr) : ExecView (.busRd a) (runRead (sysRead a))

/-- The operations of the register window are its reads and writes by offset (R103, R142). -/
theorem exec_view {i : Instr} (hi : i ≠ .tick) : ExecView i (exec i) := by
  cases i with
  | tick => exact absurd rfl hi
  | wrCtrl d => exact .portWrite 0 d
  | wrMask d => exact .portWrite 1 d
  | wrStatus d => exact .portWrite 2 d
  | wrOamaddr d => exact .portWrite 3 d
  | wrOamdata d => exact .portWrite 4 d
  | wrScroll d => exact .portWrite 5 d
  | wrAddr d => exact .portWrite 6 d
  | wrData d => exact .portWrite 7 d
  | rdCtrl => exact .portRead 0
  | rdMask => exact .portRead 1
  | rdStatus => exact .portRead 2
  | rdOamaddr => exact .portRead 3
  | rdOamdata => exact .portRead 4
  | rdScroll => exact .portRead 5
  | rdAddr => exact .portRead 6
  | rdData => exact .portRead 7
  | wrDma page => exact .dmaWrite page
  | rdDma => exact .dmaRead
  | busWr a d => exact .busWrite a d
  | busRd a => exact .busRead a

/-! ## What an operation other than `TICK` keeps -/

/-- What every operation but `TICK` leaves as it was, and that it keeps the invariant. -/
structure OpEffect (s t : State) : Prop where
  params : t.params = s.params := by rfl
  tickCounter : t.tickCounter = s.tickCounter := by rfl
  scanLine : t.scanLine = s.scanLine := by rfl
  fb : t.fb = s.fb := by rfl
  s0hit : t.s0hit = s.s0hit := by rfl
  events : t.out.events = s.out.events := by rfl
  inv : s.Inv → t.Inv

theorem OpEffect.refl (s : State) : OpEffect s s where
  inv := id

theorem OpEffect.trans {s t u : State} (h : OpEffect s t) (h' : OpEffect t u) : OpEffect s u where
  params := h'.params.trans h.params
  tickCounter := h'.tickCounter.trans h.tickCounter
  scanLine := h'.scanLine.trans h.scanLine
  fb := h'.fb.trans h.fb
  s0hit := h'.s0hit.trans h.s0hit
  events := h'.events.trans h.events
  inv := h'.inv ∘ h.inv

theorem OpEffect.takeError (e : Err) (s : State) : OpEffect s (takeError e s) := by
  rw [takeError_eq]
  exact { inv := fun h => { h with } }

theorem OpEffect.takeReadError (e : Err) (s : State) : OpEffect s (takeReadError e s) := by
  rw [takeReadError_eq]
  exact { inv := fun h => { h with } }

/-- Of the toggle a copy's reads clear at most, so the address stays unsettled where it was (R29, R143). -/
theorem CopyEffect.opEffect {s t : State} (h : CopyEffect s t) : OpEffect s t := by
  obtain ⟨⟨c, v, g, l, a, n, m, rfl⟩, hw, hoam, -⟩ := h
  exact { inv := fun h =>
    { h with
      oam := hoam h.oam
      toggle := fun hg => hw.elim (fun e => h.toggle (e ▸ hg)) (fun e => absurd (e.symm.trans hg) (by decide)) } }

/-- A write of a memory target keeps every memory canonical and never lists a mirrored palette cell (R37, R60, R75). -/
theorem memWrite_effect {t : MemTarget} {off : Nat} {v : Byte} {s u : State} (h : memWrite t off v s = .ok u) :
    OpEffect s u := by
  obtain ⟨-, hlt, rfl⟩ | ⟨-, hlt, rfl⟩ | ⟨-, hlt, rfl⟩ | ⟨-, -, rfl⟩ | ⟨id, r, -, hr, hlt, -, rfl⟩ := memWrite_ok h
  · exact { inv := fun h => { h with pat := Memory.ok_write v h.pat hlt } }
  · exact { inv := fun h => { h with nt0 := Memory.ok_write v h.nt0 hlt } }
  · exact { inv := fun h => { h with nt1 := Memory.ok_write v h.nt1 hlt } }
  · exact { inv := fun h =>
      { h with
        pal := Memory.ok_write v h.pal (palNorm (BitVec.ofNat 5 off)).isLt
        palLive := fun c hc => by
          obtain ⟨rfl, -⟩ | hc := Memory.mem_write hc
          · exact palNorm_live _
          · exact h.palLive c hc } }
  · exact { inv := fun h =>
      { h with
        regions := fun q hq => by
          obtain hq | rfl := List.mem_or_eq_of_mem_set hq
          · exact h.regions q hq
          · exact Memory.ok_write v (h.regions r (List.mem_of_getElem? hr)) hlt } }

/-! ## The state a body leaves -/

/-- The body's state, whether it completes or raises, satisfies `P`. -/
def Res.Leaves {α : Type} (P : State → Prop) : Res α → Prop
  | .done _ u => P u
  | .raised _ u => P u
  | .refused _ => True

theorem runWrite_effect {f : State → Res Unit} {s t : State} (hf : (f (beginOp s)).Leaves (OpEffect (beginOp s)))
    (h : runWrite f s = .next t) : OpEffect (beginOp s) t := by
  obtain ⟨-, hd | ⟨e, u, hr, rfl⟩⟩ := runWrite_next h
  · rwa [hd] at hf
  · rw [hr] at hf
    exact hf.trans (.takeError e u)

theorem runRead_effect {f : State → Res Byte} {s t : State} (hf : (f (beginOp s)).Leaves (OpEffect (beginOp s)))
    (h : runRead f s = .next t) : OpEffect (beginOp s) t := by
  obtain ⟨-, ⟨b, u, hd, rfl⟩ | ⟨e, u, hr, rfl⟩⟩ := runRead_next h
  · rw [hd] at hf
    exact hf.trans { inv := fun h => { h with } }
  · rw [hr] at hf
    exact hf.trans (.takeReadError e u)

/-! ## Reads -/

theorem OpEffect.of_draws (s : State) (n : Nat) : OpEffect s { s with draws := n } where
  inv h := { h with }

theorem targetRead_leaves (p : Target) (off : Nat) (s : State) : (targetRead p off s).Leaves (OpEffect s) := by
  cases hx : targetRead p off s with
  | done b u => exact (CopyEffect.of_read (targetRead_done hx)).opEffect
  | raised e u =>
    obtain ⟨n, rfl⟩ := targetRead_raised hx
    exact .of_draws s n
  | refused r => trivial

theorem sysRead_leaves (a : SysAddr) (s : State) : (sysRead a s).Leaves (OpEffect s) := by
  unfold sysRead
  split
  · exact .refl s
  · exact targetRead_leaves _ _ s

/-! ## Writes -/

theorem wrDma_leaves (page : Byte) (s : State) : (wrDma page s).Leaves (OpEffect s) := by
  cases hx : wrDma page s with
  | done a u => exact (wrDma_effect (.inl hx)).opEffect
  | raised e u => exact (wrDma_effect (.inr ⟨e, hx⟩)).opEffect
  | refused r => trivial

theorem videoWrite_leaves (a : VidAddr) (v : Byte) (s : State) : (videoWrite a v s).Leaves (OpEffect s) := by
  unfold videoWrite busMemWrite
  split
  · exact .refl s
  · split
    · next hu => exact memWrite_effect hu
    · trivial

theorem wrData_leaves (d : Byte) (s : State) : (wrData d s).Leaves (OpEffect s) := by
  have hv := videoWrite_leaves s.vaddr d s
  unfold wrData
  split
  · cases hx : videoWrite s.vaddr d s with
    | done a u =>
      rw [hx] at hv
      exact hv.trans { inv := fun h => { h with } }
    | raised e u => rwa [hx] at hv
    | refused r => trivial
  · trivial

/-- A first scroll write withdraws the address pair, a second write of either port ends it (R29, R145). -/
theorem wrScroll_leaves (d : Byte) (s : State) : (wrScroll d s).Leaves (OpEffect s) := by
  unfold wrScroll
  split
  · exact { inv := fun h => { h with toggle := nofun } }
  · exact { inv := fun h => { h with toggle := nofun } }

/-- A first address write unsettles the address, a second write of the pair ends it (R29, R146, R147). -/
theorem wrAddr_leaves (d : Byte) (s : State) : (wrAddr d s).Leaves (OpEffect s) := by
  unfold wrAddr
  split
  · split
    · exact { inv := fun h => { h with toggle := nofun } }
    · exact { inv := fun h => { h with toggle := nofun } }
  · exact { inv := fun h => { h with toggle := fun _ _ => rfl } }

theorem windowWrite_leaves (off : Nat) (d : Byte) (s : State) : (windowWrite off d s).Leaves (OpEffect s) := by
  unfold windowWrite
  split
  · cases WindowPort.ofOffset (BitVec.ofNat 3 off) with
    | control => exact { inv := fun h => { h with } }
    | mask => exact { inv := fun h => { h with } }
    | status => exact .refl s
    | oamAddr => exact .refl s
    | oamData => exact .refl s
    | scroll => exact wrScroll_leaves d s
    | address => exact wrAddr_leaves d s
    | data => exact wrData_leaves d s
  · trivial

theorem targetWrite_leaves (p : Target) (off : Nat) (d : Byte) (s : State) :
    (targetWrite p off d s).Leaves (OpEffect s) := by
  cases p with
  | mem m =>
    simp only [targetWrite]
    cases hm : memWrite m off d s with
    | ok u => exact memWrite_effect hm
    | error r => trivial
  | window => exact windowWrite_leaves off d s
  | dmaPort =>
    simp only [targetWrite, dmaPortWrite]
    split
    · exact wrDma_leaves d s
    · trivial
  | device id =>
    simp only [targetWrite, deviceWrite]
    split
    · exact OpEffect.of_draws s _
    · exact OpEffect.of_draws s _

theorem sysWrite_leaves (a : SysAddr) (d : Byte) (s : State) : (sysWrite a d s).Leaves (OpEffect s) := by
  unfold sysWrite
  split
  · exact .refl s
  · exact targetWrite_leaves _ _ d s

/-! ## Every operation -/

/-- Every operation but `TICK` keeps what `OpEffect` says, from the state with its outputs cleared on. -/
theorem exec_effect {i : Instr} {s t : State} (hi : i ≠ .tick) (h : exec i s = .next t) : OpEffect (beginOp s) t := by
  have hv := exec_view hi
  generalize exec i = x at hv h
  cases hv with
  | portWrite off d => exact runWrite_effect (windowWrite_leaves off d _) h
  | portRead off => exact runRead_effect (targetRead_leaves .window off _) h
  | dmaWrite page => exact runWrite_effect (wrDma_leaves page _) h
  | dmaRead => exact runRead_effect (targetRead_leaves .dmaPort 0 _) h
  | busWrite a d => exact runWrite_effect (sysWrite_leaves a d _) h
  | busRead a => exact runRead_effect (sysRead_leaves a _) h

/-- A halted block has no next state (R265). -/
theorem exec_next_running {i : Instr} {s t : State} (h : exec i s = .next t) : s.halted = none := by
  by_cases hi : i = .tick
  · subst hi
    exact (execTick_next h).1
  · have hv := exec_view hi
    generalize exec i = x at hv h
    cases hv with
    | portWrite | dmaWrite | busWrite => exact (runWrite_next h).1
    | portRead | dmaRead | busRead => exact (runRead_next h).1

/-! ## The tick -/

/-- No course of the tick changes a parameter or sprite memory (R41, R78). -/
theorem tick_keeps (s : State) : (tick s).params = s.params ∧ (tick s).oam = s.oam := by
  by_cases hc : s.tickCounter = 340
  · by_cases hl : s.scanLine = 259
    · rw [tick_frame hc hl]
      exact ⟨rfl, rfl⟩
    · rw [tick_line hc hl]
      exact ⟨rfl, rfl⟩
  · rw [tick_within hc]
    exact ⟨rfl, rfl⟩

/-- Once a line is rendered, every visible line up to it has its row (R121, R127). -/
theorem renderLine_rendered {s : State} (h : s.Inv) (r : Nat) (hr : r + 20 < s.scanLine + 1) :
    ((renderLine s.scanLine s).fb.row? r).isSome = true := by
  rw [renderLine_row]
  split
  · rfl
  · next hn => exact h.rendered r (show r + 20 < s.scanLine by simp only [Config.firstVisibleLine] at hn; omega)

theorem tick_inv {s : State} (h : s.Inv) : (tick s).Inv := by
  obtain ⟨hcount, hline⟩ : s.tickCounter < 341 ∧ s.scanLine < 260 := h.timer
  by_cases hc : s.tickCounter = 340
  · by_cases hl : s.scanLine = 259
    · rw [tick_frame hc hl]
      exact { h with
        timer := ⟨Nat.zero_lt_succ _, Nat.zero_lt_succ _⟩
        frame := renderLine_ok h.frame (by decide)
        rendered := fun r hr => absurd hr (Nat.not_lt_zero _)
        s0hit := rfl }
    · rw [tick_line hc hl]
      exact { h with
        timer := ⟨Nat.zero_lt_succ _, show s.scanLine + 1 < 260 by omega⟩
        frame := renderLine_ok h.frame hline
        rendered := renderLine_rendered h }
  · rw [tick_within hc]
    exact { h with timer := ⟨show s.tickCounter + 1 < 341 by omega, hline⟩ }

theorem exec_params {i : Instr} {s t : State} (h : exec i s = .next t) : t.params = s.params := by
  by_cases hi : i = .tick
  · subst hi
    obtain ⟨-, -, rfl⟩ := execTick_next h
    exact (tick_keeps _).1
  · exact (exec_effect hi h).params

/-- The invariant does not speak of the stream of operations (R84). -/
theorem State.Inv.with_inbox {s : State} (h : s.Inv) (rest : List Input) (nested : Bool) :
    ({ s with inbox := rest, inCallback := nested } : State).Inv := { h with }

theorem exec_inv {i : Instr} {s t : State} (hs : s.Inv) (h : exec i s = .next t) : t.Inv := by
  have hb : (beginOp s).Inv := { hs with }
  by_cases hi : i = .tick
  · subst hi
    obtain ⟨-, -, rfl⟩ := execTick_next h
    exact tick_inv hb
  · exact (exec_effect hi h).inv hb

/-! ## Construction -/

/-- A block right after construction meets the invariant, whatever it is constructed with (R42). -/
theorem fresh_inv (params : Params) {regions : List Region} (diagCount draw : Nat)
    (h : ∀ r ∈ regions, Memory.ok r.bytes r.size) : (State.fresh params regions diagCount draw).Inv where
  timer := ⟨Nat.zero_lt_succ _, Nat.zero_lt_succ _⟩
  pat := Memory.ok_nil _
  nt0 := Memory.ok_nil _
  nt1 := Memory.ok_nil _
  pal := Memory.ok_nil _
  oam := Memory.ok_nil _
  palLive := nofun
  regions := h
  frame := ⟨.nil, nofun⟩
  rendered := fun _ hr => absurd hr (Nat.not_lt_zero _)
  s0hit := rfl
  toggle := nofun

theorem constructed_inv {chr : List Byte} {s : State} (hs : s.Inv) (hc : chr.length ≤ Config.patternSize) :
    (constructed chr s).Inv :=
  { fresh_inv s.params s.diagCount s.draws hs.regions with
    pat := Memory.ok_load chr [] 0 (Memory.ok_nil _) (by omega) }

/-- Pattern memory of a new block holds the blob from address 0 and zero after it (R42, R290). -/
theorem constructed_pat_read (chr : List Byte) (s : State) (a : Nat) :
    (constructed chr s).pat.read a = chr.getD a 0x00 := by
  rw [constructed, Memory.read_load, if_pos (Nat.zero_le a), Nat.sub_zero, List.getD_eq_getElem?_getD]
  rfl

theorem construct_next {chr : List Byte} {s t : State} (h : construct chr s = .next t) :
    chr.length ≤ Config.patternSize ∧ t = constructed chr s := by
  unfold construct at h
  split at h
  · next hc => cases h; exact ⟨of_decide_eq_true hc, rfl⟩
  · cases h

/-! ## The step -/

theorem step_nil {s : State} (h : s.inbox = []) : step s = .next s := by
  simp only [step, nextInput, h]

theorem step_construct {s : State} {chr : List Byte} {rest : List Input} (h : s.inbox = .construct chr :: rest) :
    step s = construct chr { s with inbox := rest } := by
  simp only [step, nextInput, h]

/-- A step that takes a transaction word and answers a next state runs the operation the word decodes to. -/
theorem step_request {s u t : State} {w : OpWord} {nested : Bool} (hn : nextInput s = request w nested u)
    (h : step s = .next t) : ∃ i, exec i { u with inCallback := nested } = .next t := by
  simp only [step, hn, request] at h
  cases hd : decode w with
  | some i => simp only [hd] at h; exact ⟨i, h⟩
  | none =>
    simp only [hd] at h
    cases (operation_next h).2

/-- All that a step can do: nothing, an operation, or a construction. -/
theorem step_next {s t : State} (h : step s = .next t) :
    t = s ∨
    (∃ i rest nested, exec i { s with inbox := rest, inCallback := nested } = .next t) ∨
    ∃ chr rest, s.inbox = .construct chr :: rest ∧ chr.length ≤ Config.patternSize ∧
      t = constructed chr { s with inbox := rest } := by
  cases hb : s.inbox with
  | nil =>
    rw [step_nil hb] at h
    cases h
    exact .inl rfl
  | cons input rest =>
    cases input with
    | op w =>
      have hn : nextInput s = request w false { s with inbox := rest } := by simp only [nextInput, hb]
      obtain ⟨i, hi⟩ := step_request hn h
      exact .inr (.inl ⟨i, rest, false, hi⟩)
    | nested w =>
      have hn : nextInput s = request w true { s with inbox := rest } := by simp only [nextInput, hb]
      obtain ⟨i, hi⟩ := step_request hn h
      exact .inr (.inl ⟨i, rest, true, hi⟩)
    | construct chr =>
      rw [step_construct hb] at h
      obtain ⟨hc, rfl⟩ := construct_next h
      exact .inr (.inr ⟨chr, rest, rfl, hc, rfl⟩)

/-- Settles O10: an operation keeps the invariant, and a construction establishes it. -/
theorem stepKeepsTheInvariant : Obligations.StepKeepsTheInvariant := by
  intro s t hs h
  obtain rfl | ⟨i, rest, nested, hi⟩ | ⟨chr, rest, -, hc, rfl⟩ := step_next h
  · exact hs
  · exact exec_inv (hs.with_inbox rest nested) hi
  · exact constructed_inv (hs.with_inbox rest s.inCallback) hc

/-- Settles O12: only a block without a fatal error runs an operation. -/
theorem stepKeepsParametersAndFatalError : Obligations.StepKeepsParametersAndFatalError := by
  intro s t h
  obtain rfl | ⟨i, rest, nested, hi⟩ | ⟨chr, rest, hb, -, rfl⟩ := step_next h
  · exact ⟨rfl, fun e he => .inl he⟩
  · have hs := exec_next_running hi
    have hp := exec_params hi
    exact ⟨hp, fun e he => by cases he.symm.trans hs⟩
  · exact ⟨rfl, fun e _ => .inr ⟨chr, rest, hb⟩⟩

/-- Settles O13. -/
theorem onlyTickAdvancesTheTimer : Obligations.OnlyTickAdvancesTheTimer := by
  intro i s t hi h
  have he := exec_effect hi h
  exact ⟨he.tickCounter, he.scanLine, he.fb, he.s0hit, he.events⟩

/-- Settles O7. -/
theorem stepConstructsTheBlock : Obligations.StepConstructsTheBlock := by
  intro s chr rest hb
  rw [step_construct hb]
  constructor
  · intro hlen
    exact if_neg (by simpa [chrFits] using hlen)
  · intro hlen
    refine ⟨constructed chr { s with inbox := rest }, if_pos (by simpa [chrFits] using hlen), ?_⟩
    have hpat := constructed_pat_read chr { s with inbox := rest }
    exact ⟨rfl, rfl, rfl, rfl, rfl, rfl, rfl, rfl, rfl, rfl, rfl, rfl, rfl, hpat, fun _ => rfl, fun _ => rfl,
      fun _ => rfl, fun _ => rfl, rfl, rfl, rfl, rfl, rfl⟩

/-- Settles O8: every field of the constructed block is its reset value by definition. -/
theorem resetState : Obligations.ResetState := by
  unfold Obligations.ResetState
  and_intros <;> rfl

/-- Settles O9: the platform's regions of the test vectors hold nothing. -/
theorem resetMeetsTheInvariant : Obligations.ResetMeetsTheInvariant :=
  fresh_inv resetParams 0 0 (by decide)

/-! ## Sprite memory -/

/-- From `s`, a body does the same whatever sprite memory holds, and leaves it. -/
def OamClosed {α : Type} (f : State → Res α) (s : State) : Prop :=
  ∀ m, f { s with oam := m } = (f s).withOam m

theorem OamClosed.sameButOam {α : Type} {f : State → Res α} {s : State} (hf : OamClosed f s) (m : Memory) :
    (f s).sameButOam (f { s with oam := m }) := by
  rw [hf m]
  exact Res.sameButOam_withOam _ m

theorem runWrite_oam {f : State → Res Unit} {s t : State} (hf : OamClosed f (beginOp s))
    (h : runWrite f s = .next t) : t.oam = s.oam := by
  obtain ⟨hdone, hraised⟩ := Res.oam_of_withOam (hf s.oam)
  obtain ⟨-, hd | ⟨e, u, hr, rfl⟩⟩ := runWrite_next h
  · exact hdone _ _ hd
  · rw [takeError_eq]
    exact (hraised e u hr :)

theorem runRead_oam {f : State → Res Byte} {s t : State} (hf : OamClosed f (beginOp s))
    (h : runRead f s = .next t) : t.oam = s.oam := by
  obtain ⟨hdone, hraised⟩ := Res.oam_of_withOam (hf s.oam)
  obtain ⟨-, ⟨b, u, hd, rfl⟩ | ⟨e, u, hr, rfl⟩⟩ := runRead_next h
  · exact (hdone b u hd :)
  · rw [takeReadError_eq]
    exact (hraised e u hr :)

theorem dmaPortRead_oam (off : Nat) (s : State) : OamClosed (dmaPortRead off) s := by
  intro m
  simp only [dmaPortRead]
  split <;> rfl

/-- Settles O54: but for the DMA copy, a body that leaves sprite memory to itself leaves it as it was. -/
theorem onlyTheDmaPortWritesSpriteMemory : Obligations.OnlyTheDmaPortWritesSpriteMemory := by
  intro i s t h
  by_cases hi : i = .tick
  · subst hi
    obtain ⟨-, -, rfl⟩ := execTick_next h
    exact .inl (tick_keeps _).2
  · have hv := exec_view hi
    generalize exec i = x at hv h
    cases hv with
    | portWrite off d => exact .inl (runWrite_oam (windowWrite_oam off d _) h)
    | portRead off => exact .inl (runRead_oam (windowRead_oam off _) h)
    | dmaWrite page => exact .inr (.inl ⟨page, rfl⟩)
    | dmaRead => exact .inl (runRead_oam (dmaPortRead_oam 0 _) h)
    | busWrite a d =>
      by_cases hd : ∃ g, findHandler (sysMap s.params) a = some g ∧ g.target = .dmaPort
      · obtain ⟨g, hg, ht⟩ := hd
        exact .inr (.inr ⟨a, d, g, rfl, hg, ht⟩)
      · exact .inl (runWrite_oam (fun m => sysWrite_oam d m (fun g hg ht => hd ⟨g, hg, ht⟩)) h)
    | busRead a => exact .inl (runRead_oam (sysRead_oam a _) h)

/-- Two outcomes of an operation that differ in sprite memory at most. -/
def OutcomesAgree (x y : Host.Outcome State Fault Refusal) : Prop :=
  (∀ t, x = .next t → ∃ o, y = .next { t with oam := o }) ∧
    (∀ f, x = .fault f → y = .fault f) ∧ ∀ r, x = .refused r → y = .refused r

theorem OutcomesAgree.next (t : State) (o : Memory) : OutcomesAgree (.next t) (.next { t with oam := o }) :=
  ⟨fun _ h => ⟨o, by cases h; rfl⟩, nofun, nofun⟩

theorem OutcomesAgree.fault (f : Fault) : OutcomesAgree (.fault f) (.fault f) := by
  simp [OutcomesAgree]

theorem OutcomesAgree.refused (r : Refusal) : OutcomesAgree (.refused r) (.refused r) := by
  simp [OutcomesAgree]

theorem settleWrite_agree {x y : Res Unit} (h : x.sameButOam y) : OutcomesAgree (settleWrite x) (settleWrite y) := by
  cases x with
  | done a t => obtain ⟨o, rfl⟩ := h; exact OutcomesAgree.next t o
  | raised e t =>
    obtain ⟨o, rfl⟩ := h
    simp only [settleWrite, takeError_eq]
    exact OutcomesAgree.next _ o
  | refused r => obtain rfl := h; exact OutcomesAgree.refused r

theorem settleRead_agree {x y : Res Byte} (h : x.sameButOam y) : OutcomesAgree (settleRead x) (settleRead y) := by
  cases x with
  | done a t => obtain ⟨o, rfl⟩ := h; exact OutcomesAgree.next _ o
  | raised e t =>
    obtain ⟨o, rfl⟩ := h
    simp only [settleRead, takeReadError_eq]
    exact OutcomesAgree.next _ o
  | refused r => obtain rfl := h; exact OutcomesAgree.refused r

/-- Whether the block is halted does not depend on sprite memory, so an operation's two courses are its body's. -/
theorem operation_agree {s : State} {m : Memory} {body : State → Host.Outcome State Fault Refusal}
    (h : OutcomesAgree (body (beginOp s)) (body { beginOp s with oam := m })) :
    OutcomesAgree (operation s body) (operation { s with oam := m } body) := by
  by_cases hs : s.halted = none
  · rw [operation_running hs, operation_running (s := { s with oam := m }) hs]
    exact h
  · obtain ⟨e, he⟩ := Option.ne_none_iff_exists'.1 hs
    rw [operation_halted he, operation_halted (s := { s with oam := m }) he]
    exact .fault _

theorem runWrite_agree {f : State → Res Unit} {s : State} {m : Memory}
    (h : (f (beginOp s)).sameButOam (f { beginOp s with oam := m })) :
    OutcomesAgree (runWrite f s) (runWrite f { s with oam := m }) :=
  operation_agree (settleWrite_agree h)

theorem runRead_agree {f : State → Res Byte} {s : State} {m : Memory}
    (h : (f (beginOp s)).sameButOam (f { beginOp s with oam := m })) :
    OutcomesAgree (runRead f s) (runRead f { s with oam := m }) :=
  operation_agree (settleRead_agree h)

/-- A bus write ends the same way whatever sprite memory holds, the DMA copy included. -/
theorem sysWrite_sameButOam (a : SysAddr) (d : Byte) (s : State) (m : Memory) :
    (sysWrite a d s).sameButOam (sysWrite a d { s with oam := m }) := by
  by_cases hd : ∃ g, findHandler (sysMap s.params) a = some g ∧ g.target = .dmaPort
  · obtain ⟨g, hg, ht⟩ := hd
    simp only [sysWrite, hg, ht, targetWrite, dmaPortWrite]
    split
    · exact dmaCopy_oam d (by decide) s m
    · rfl
  · exact OamClosed.sameButOam (fun m => sysWrite_oam d m (fun g hg ht => hd ⟨g, hg, ht⟩)) m

/-- Settles O55: no body but the DMA copy reads or writes sprite memory, and the copy does not read it. -/
theorem noOperationButTickDependsOnSpriteMemory : Obligations.NoOperationButTickDependsOnSpriteMemory := by
  intro i s m hi
  have hv := exec_view hi
  generalize exec i = x at hv
  cases hv with
  | portWrite off d => exact runWrite_agree (OamClosed.sameButOam (windowWrite_oam off d _) m)
  | portRead off => exact runRead_agree (OamClosed.sameButOam (windowRead_oam off _) m)
  | dmaWrite page => exact runWrite_agree (dmaCopy_oam page (by decide) _ m)
  | dmaRead => exact runRead_agree ((dmaPortRead_oam 0 _).sameButOam m)
  | busWrite a d => exact runWrite_agree (sysWrite_sameButOam a d _ m)
  | busRead a => exact runRead_agree (OamClosed.sameButOam (sysRead_oam a _) m)

/-! ## The status read -/

/-- The two flags of the status byte, bit 7 and bit 6 (R25). -/
theorem statusByte_eq (s : State) :
    statusByte s = (if s.vblank then 0x80#8 else 0x00#8) ||| (if s.s0hit then 0x40#8 else 0x00#8) := by
  unfold statusByte
  cases s.vblank <;> cases s.s0hit <;> rfl

/-- The diagnostic bit is set on odd counts where phase 0 is clear, and on even counts where it is set (R31). -/
theorem diagBit_eq (s : State) :
    diagBit s = match s.params.diag with
      | .omit => 0x00#8
      | .alternate mask phase0 => if (s.diagCount % 2 = 1) ↔ phase0 = false then mask else 0x00#8 := by
  unfold diagBit
  obtain _ | ⟨mask, phase0⟩ := s.params.diag
  · rfl
  · cases phase0 <;> simp

/-- Settles O31. -/
theorem statusRead : Obligations.StatusRead := by
  intro s hs
  refine ⟨rfl, (runRead_of_done (f := rdStatus) hs rfl).trans ?_⟩
  rw [statusValue, statusByte_eq, diagBit_eq]
  rfl

end Sys2Proof.Machine

/-! # The proofs of the memory family (20_memory.md)

The cells and the palette, the lookup of a dispatcher, the video bus as a flat map, and the routes of the system bus. Each
access is settled by what its bus answers: a byte, a changed memory, an error or a refusal. -/

namespace Sys2Proof.Machine

/-! ## Memory cells and the palette (R60, R74, R75) -/

/-- Settles O44. -/
theorem memoryCellLaws : Obligations.MemoryCellLaws := by
  intro m a v
  exact ⟨Memory.wf_write a v, by simp, fun b hb => by simp [hb]⟩

/-- Settles O43: a palette access is an access of the cell its offset normalises to. -/
theorem paletteMirrors : Obligations.PaletteMirrors := by
  intro o p v s
  simp only [palRead, palWrite, Memory.read_write, palNorm_toNat]

/-! ## Lookup (R64) -/

theorem handlerCovers_iff {τ : Type} (h : Handler τ) (a : SysAddr) :
    handlerCovers h a = true ↔ h.base.toNat ≤ a.toNat ∧ a.toNat < h.base.toNat + h.size.toNat := by
  simp [handlerCovers]

/-- Settles O41: lookup is the library's search for the first entry that covers the address. -/
theorem lookupIsFirstMatch : Obligations.LookupIsFirstMatch := by
  intro hs a
  constructor
  · intro h
    simp only [findHandler, List.find?_eq_some_iff_append, Bool.not_eq_true', Bool.eq_false_iff, ne_eq,
      handlerCovers_iff]
    constructor
    · rintro ⟨hc, before, after, heq, hb⟩
      exact ⟨before, after, heq, hc, hb⟩
    · rintro ⟨before, after, heq, hc, hb⟩
      exact ⟨hc, before, after, heq, hb⟩
  · simp only [findHandler, List.find?_eq_none, handlerCovers_iff]

/-! ## The video bus as a flat map (R70, R73) -/

theorem videoMapped_iff (n : Nat) :
    Reference.videoMapped n = true ↔ n < 0x2800 ∨ (0x3F00 ≤ n ∧ n < 0x3F20) := by
  simp [Reference.videoMapped]

theorem videoMapped_eq_false_iff (n : Nat) :
    Reference.videoMapped n = false ↔ 0x2800 ≤ n ∧ ¬ (0x3F00 ≤ n ∧ n < 0x3F20) := by
  rw [← Bool.not_eq_true, videoMapped_iff]
  omega

/-- The four memories behind the video bus, by the range of the address (R70). -/
theorem videoMapped_cases {n : Nat} (h : Reference.videoMapped n = true) :
    n < 0x2000 ∨ (0x2000 ≤ n ∧ n < 0x2400) ∨ (0x2400 ≤ n ∧ n < 0x2800) ∨ (0x3F00 ≤ n ∧ n < 0x3F20) := by
  have := (videoMapped_iff n).1 h
  omega

theorem videoRead_of_not_mapped {a : VidAddr} (s : State) (h : Reference.videoMapped a.toNat = false) :
    videoRead a s = .raised (.unmappedAddress (a.setWidth 16)) s :=
  have ⟨h1, h2⟩ := (videoMapped_eq_false_iff _).1 h
  videoRead_unmapped s h1 h2

theorem videoWrite_of_not_mapped {a : VidAddr} (v : Byte) (s : State) (h : Reference.videoMapped a.toNat = false) :
    videoWrite a v s = .raised (.unmappedAddress (a.setWidth 16)) s :=
  have ⟨h1, h2⟩ := (videoMapped_eq_false_iff _).1 h
  videoWrite_unmapped v s h1 h2

theorem videoByte_pattern (s : State) {n : Nat} (h : n < 0x2000) :
    Reference.videoByte s n = (s.pat.read n).toNat := by
  rw [Reference.videoByte, if_pos h, cell_eq]

theorem videoByte_nameTable0 (s : State) {n : Nat} (h : 0x2000 ≤ n) (h' : n < 0x2400) :
    Reference.videoByte s n = (s.nt0.read (n - 0x2000)).toNat := by
  rw [Reference.videoByte, if_neg (by omega), if_pos h', cell_eq]

theorem videoByte_nameTable1 (s : State) {n : Nat} (h : 0x2400 ≤ n) (h' : n < 0x2800) :
    Reference.videoByte s n = (s.nt1.read (n - 0x2400)).toNat := by
  rw [Reference.videoByte, if_neg (by omega), if_neg (by omega), if_pos h', cell_eq]

/-- A palette offset fits its five bits (R76). -/
theorem paletteOffset_toNat {n : Nat} (h : n < 0x3F20) :
    (BitVec.ofNat 5 (n - 0x3F00)).toNat = n - 0x3F00 := by
  rw [BitVec.toNat_ofNat]
  omega

theorem videoByte_palette (s : State) {n : Nat} (h : 0x3F00 ≤ n) (h' : n < 0x3F20) :
    Reference.videoByte s n = (palRead (BitVec.ofNat 5 (n - 0x3F00)) s).toNat := by
  rw [Reference.videoByte, if_neg (by omega), if_neg (by omega), if_neg (by omega), palRead_toNat,
    paletteOffset_toNat h']

/-- Settles O42: in each of the four ranges, the bus and the flat map read the same memory at the same offset. -/
theorem videoBusReads : Obligations.VideoBusReads := by
  intro a s
  refine ⟨fun h => ?_, videoRead_of_not_mapped s⟩
  obtain h | ⟨h, h'⟩ | ⟨h, h'⟩ | ⟨h, h'⟩ := videoMapped_cases h
  · rw [videoRead_pattern s h, videoByte_pattern s h, BitVec.ofNat_toNat, BitVec.setWidth_eq]
  · rw [videoRead_nameTable0 s h h', videoByte_nameTable0 s h h', BitVec.ofNat_toNat, BitVec.setWidth_eq]
  · rw [videoRead_nameTable1 s h h', videoByte_nameTable1 s h h', BitVec.ofNat_toNat, BitVec.setWidth_eq]
  · rw [videoRead_palette s h h', videoByte_palette s h h', BitVec.ofNat_toNat, BitVec.setWidth_eq]

/-! ## Writes of the flat map -/

theorem cell_write (m : Memory) (a : Nat) (v : Byte) (b : Nat) :
    Reference.cell (m.write a v) b = if b = a then v.toNat else Reference.cell m b := by
  simp only [cell_eq, Memory.read_write]
  split <;> rfl

/-- Of the flat map, `t` differs from `s` in the cell of address `n` alone, which holds `v` (R74, R75). -/
def SetsVideoCell (n : Nat) (v : Byte) (s t : State) : Prop :=
  ∀ b, Reference.videoMapped b = true →
    Reference.videoByte t b =
      if Reference.videoCell b = Reference.videoCell n then v.toNat else Reference.videoByte s b

theorem setsVideoCell_pattern (s : State) {n : Nat} (v : Byte) (h : n < 0x2000) :
    SetsVideoCell n v s { s with pat := s.pat.write n v } := by
  rintro b -
  simp only [Reference.videoByte, Reference.videoCell, cell_write]
  split_ifs <;> omega

theorem setsVideoCell_nameTable0 (s : State) {n : Nat} (v : Byte) (h : 0x2000 ≤ n) (h' : n < 0x2400) :
    SetsVideoCell n v s { s with nt0 := s.nt0.write (n - 0x2000) v } := by
  rintro b -
  simp only [Reference.videoByte, Reference.videoCell, cell_write]
  split_ifs <;> omega

theorem setsVideoCell_nameTable1 (s : State) {n : Nat} (v : Byte) (h : 0x2400 ≤ n) (h' : n < 0x2800) :
    SetsVideoCell n v s { s with nt1 := s.nt1.write (n - 0x2400) v } := by
  rintro b -
  simp only [Reference.videoByte, Reference.videoCell, cell_write]
  split_ifs <;> omega

theorem setsVideoCell_palette (s : State) {n : Nat} (v : Byte) (h : 0x3F00 ≤ n) (h' : n < 0x3F20) :
    SetsVideoCell n v s (palWrite (BitVec.ofNat 5 (n - 0x3F00)) v s) := by
  intro b hb
  have := (videoMapped_iff b).1 hb
  simp only [Reference.videoByte, Reference.videoCell, palWrite, palNorm_toNat, paletteOffset_toNat h', cell_write]
  split_ifs <;> omega

/-- A video write at a mapped, writable address completes and sets the one cell it addresses (R72, R74, R75). -/
theorem videoWrite_of_mapped {a : VidAddr} (v : Byte) (s : State) (hm : Reference.videoMapped a.toNat = true)
    (hp : a.toNat < 0x2000 → s.params.patternWritable = true) :
    ∃ p n0 n1 c, videoWrite a v s = .done () { s with pat := p, nt0 := n0, nt1 := n1, pal := c } ∧
      SetsVideoCell a.toNat v s { s with pat := p, nt0 := n0, nt1 := n1, pal := c } := by
  obtain h | ⟨h, h'⟩ | ⟨h, h'⟩ | ⟨h, h'⟩ := videoMapped_cases hm
  · exact ⟨_, _, _, _, videoWrite_pattern v s h (hp h), setsVideoCell_pattern s v h⟩
  · exact ⟨_, _, _, _, videoWrite_nameTable0 v s h h', setsVideoCell_nameTable0 s v h h'⟩
  · exact ⟨_, _, _, _, videoWrite_nameTable1 v s h h', setsVideoCell_nameTable1 s v h h'⟩
  · exact ⟨_, _, _, _, videoWrite_palette v s h h', setsVideoCell_palette s v h h'⟩

/-! ## How an operation ends -/

theorem runWrite_of_refused {f : State → Res Unit} {s : State} {r : Refusal} (h : s.halted = none)
    (hf : f (beginOp s) = .refused r) : runWrite f s = .refused r := by
  simp [runWrite, operation_running h, hf, settleWrite]

/-- A fatal error is handed out and recorded (R265). -/
theorem runWrite_of_fatal {f : State → Res Unit} {s : State} {e : Err} (h : s.halted = none)
    (hf : f (beginOp s) = .raised e (beginOp s)) (hd : downgraded s.params e = false) :
    runWrite f s = .next { s with halted := some e, out := ⟨none, some e, []⟩ } := by
  rw [runWrite_of_raised h hf, takeError_eq, beginOp_params, hd]
  rfl

theorem runRead_of_fatal {f : State → Res Byte} {s : State} {e : Err} (h : s.halted = none)
    (hf : f (beginOp s) = .raised e (beginOp s)) (hd : downgraded s.params e = false) :
    runRead f s = .next { s with halted := some e, out := ⟨none, some e, []⟩ } := by
  rw [runRead_of_raised h hf, takeReadError_eq, beginOp_params, hd]
  rfl

/-- A downgraded error is handed out and leaves the block running (R266). -/
theorem runWrite_of_downgraded {f : State → Res Unit} {s : State} {e : Err} (h : s.halted = none)
    (hf : f (beginOp s) = .raised e (beginOp s)) (hd : downgraded s.params e = true) :
    runWrite f s = .next { s with out := ⟨none, some e, []⟩ } := by
  rw [runWrite_of_raised h hf, takeError_eq, beginOp_params, hd]
  rfl

/-- A downgraded error of a read hands out a draw besides (R266). -/
theorem runRead_of_downgraded {f : State → Res Byte} {s : State} {e : Err} (h : s.halted = none)
    (hf : f (beginOp s) = .raised e (beginOp s)) (hd : downgraded s.params e = true) :
    runRead f s = .next { s with draws := s.draws + 1, out := ⟨some (Config.benignByte s.draws), some e, []⟩ } := by
  rw [runRead_of_raised h hf, takeReadError_eq, beginOp_params, hd]
  rfl

/-! ## The data port (R144, R148, R150) -/

theorem rdData_of_not_mapped {s : State} (hk : s.vaddrKnown = true)
    (hm : Reference.videoMapped s.vaddr.toNat = false) :
    rdData s = .raised (.unmappedAddress (s.vaddr.setWidth 16)) s := by
  simp only [rdData, hk, if_true, videoRead_of_not_mapped s hm]

theorem wrData_of_not_mapped {s : State} (d : Byte) (hk : s.vaddrKnown = true)
    (hm : Reference.videoMapped s.vaddr.toNat = false) :
    wrData d s = .raised (.unmappedAddress (s.vaddr.setWidth 16)) s := by
  simp only [wrData, hk, if_true, videoWrite_of_not_mapped d s hm]

theorem wrData_of_done {s t : State} {d : Byte} (hk : s.vaddrKnown = true)
    (hw : videoWrite s.vaddr d s = .done () t) : wrData d s = .done () { t with vaddr := nextVaddr s } := by
  simp only [wrData, hk, if_true, hw]

theorem wrData_of_refused {s : State} {d : Byte} {r : Refusal} (hk : s.vaddrKnown = true)
    (hw : videoWrite s.vaddr d s = .refused r) : wrData d s = .refused r := by
  simp only [wrData, hk, if_true, hw]

theorem wrData_of_unsettled {s : State} (d : Byte) (hk : s.vaddrKnown = false) :
    wrData d s = .refused .unsettledAddress := by
  simp [wrData, hk]

/-- Settles O35: the video bus raises the address, and the operation takes the error. -/
theorem dataAccessUnmapped : Obligations.DataAccessUnmapped := by
  intro d s hs hk hm
  have hr : rdData (beginOp s) = .raised (.unmappedAddress (s.vaddr.setWidth 16)) (beginOp s) :=
    rdData_of_not_mapped hk hm
  have hw : wrData d (beginOp s) = .raised (.unmappedAddress (s.vaddr.setWidth 16)) (beginOp s) :=
    wrData_of_not_mapped d hk hm
  exact ⟨fun hb => ⟨runRead_of_fatal hs hr hb, runWrite_of_fatal hs hw hb⟩,
    fun hb => ⟨⟨_, runRead_of_downgraded hs hr hb⟩, runWrite_of_downgraded hs hw hb⟩⟩

/-- The increment of the reference is the machine's (R150). -/
theorem increment_toNat (s : State) : (increment s.ctrl).toNat = Reference.inc s := by
  unfold increment Reference.inc Reference.ctrlBit
  rw [bit_eq]
  cases s.ctrl.getLsbD 2 <;> rfl

/-- The address after a completed access, in naturals modulo 2^14 (R150). -/
theorem nextVaddr_eq (s : State) :
    nextVaddr s = BitVec.ofNat 14 ((s.vaddr.toNat + Reference.inc s) % 0x4000) := by
  apply BitVec.eq_of_toNat_eq
  rw [nextVaddr, BitVec.toNat_add, increment_toNat, BitVec.toNat_ofNat]
  omega

/-- Settles O36: a completed video write, then the increment. -/
theorem dataWrite : Obligations.DataWrite := by
  intro d s hs
  refine ⟨rfl, fun hk => ?_, fun hk hlt hp => ?_, fun hk hm hp => ?_⟩
  · exact runWrite_of_refused hs (wrData_of_unsettled d hk)
  · exact runWrite_of_refused hs (wrData_of_refused hk (videoWrite_pattern_refused d (beginOp s) hlt hp))
  · obtain ⟨p, n0, n1, c, hw, hset⟩ := videoWrite_of_mapped d (beginOp s) hm hp
    have hd := runWrite_of_done hs (wrData_of_done hk hw)
    rw [nextVaddr_eq] at hd
    exact ⟨p, n0, n1, c, hd, hset⟩

/-! ## The step (R84, R100) -/

theorem step_decoded {s u : State} {w : OpWord} {nested : Bool} {i : Instr} (hn : nextInput s = request w nested u)
    (hd : decode w = some i) : step s = exec i { u with inCallback := nested } := by
  simp only [step, hn, request, hd]

/-- Settles O5. -/
theorem stepRunsTheDecodedOperation : Obligations.StepRunsTheDecodedOperation := by
  intro s w rest i hd
  constructor
  · intro hb
    have hn : nextInput s = request w false { s with inbox := rest } := by simp only [nextInput, hb]
    exact (step_decoded hn hd :)
  · intro hb
    have hn : nextInput s = request w true { s with inbox := rest } := by simp only [nextInput, hb]
    exact (step_decoded hn hd :)

/-! ## The register window and the DMA port on the system bus (R80, R142) -/

theorem exec_windowReadInstr (off : BitVec 3) :
    exec (windowReadInstr (.ofOffset off)) = runRead (windowRead off.toNat) := by
  suffices ∀ p : WindowPort, exec (windowReadInstr p) = runRead (windowRead p.offset.toNat) by
    simpa using this (.ofOffset off)
  intro p
  cases p <;> rfl

theorem exec_windowWriteInstr (off : BitVec 3) (d : Byte) :
    exec (windowWriteInstr (.ofOffset off) d) = runWrite (windowWrite off.toNat d) := by
  suffices ∀ p : WindowPort, exec (windowWriteInstr p d) = runWrite (windowWrite p.offset.toNat d) by
    simpa using this (.ofOffset off)
  intro p
  cases p <;> rfl

/-- The window is registered first, so it answers every address it covers (R64, R80). -/
theorem findHandler_window {p : Params} {a : SysAddr} (h : p.ppuBase.toNat ≤ a.toNat)
    (h' : a.toNat < p.ppuBase.toNat + 8) :
    findHandler (sysMap p) a = some { base := p.ppuBase, size := 8, target := .window } :=
  List.find?_cons_of_pos ((handlerCovers_iff _ a).2 ⟨h, h'⟩)

/-- The DMA port is registered next (R80). -/
theorem findHandler_dmaPort {p : Params}
    (h : ¬ (p.ppuBase.toNat ≤ p.dmaPort.toNat ∧ p.dmaPort.toNat < p.ppuBase.toNat + 8)) :
    findHandler (sysMap p) p.dmaPort = some { base := p.dmaPort, size := 1, target := .dmaPort } := by
  have hw : ¬ handlerCovers ({ base := p.ppuBase, size := 8, target := .window } : Handler Target) p.dmaPort = true :=
    fun hc => h ((handlerCovers_iff _ _).1 hc)
  have hd : handlerCovers ({ base := p.dmaPort, size := 1, target := .dmaPort } : Handler Target) p.dmaPort = true :=
    (handlerCovers_iff _ _).2 ⟨Nat.le_refl _, Nat.lt_succ_self _⟩
  simp only [findHandler, sysMap, registerHandler, List.nil_append, List.cons_append, List.find?_cons, hw, hd]

theorem sysRead_of_find {a : SysAddr} {s : State} {h : Handler Target} (hf : findHandler (sysMap s.params) a = some h) :
    sysRead a s = targetRead h.target (a.toNat - h.base.toNat) s := by
  simp only [sysRead, hf, handlerOffset]

theorem sysWrite_of_find {a : SysAddr} {s : State} {h : Handler Target} (d : Byte)
    (hf : findHandler (sysMap s.params) a = some h) :
    sysWrite a d s = targetWrite h.target (a.toNat - h.base.toNat) d s := by
  simp only [sysWrite, hf, handlerOffset]

theorem sysRead_of_not_covered {a : SysAddr} {s : State} (hf : findHandler (sysMap s.params) a = none) :
    sysRead a s = .raised (.unmappedAddress a) s := by
  simp only [sysRead, hf]

theorem sysWrite_of_not_covered {a : SysAddr} {s : State} (d : Byte) (hf : findHandler (sysMap s.params) a = none) :
    sysWrite a d s = .raised (.unmappedAddress a) s := by
  simp only [sysWrite, hf]

/-- An operation is determined by what its body does from the state with its outputs cleared (R10). -/
theorem runRead_congr {f g : State → Res Byte} {s : State} (h : f (beginOp s) = g (beginOp s)) :
    runRead f s = runRead g s := by
  simp only [runRead, operation, h]

theorem runWrite_congr {f g : State → Res Unit} {s : State} (h : f (beginOp s) = g (beginOp s)) :
    runWrite f s = runWrite g s := by
  simp only [runWrite, operation, h]

/-- A bus access a handler covers is the access of its target at the relative offset (R65, R66). -/
theorem exec_busRd_of_find {a : SysAddr} {s : State} {h : Handler Target}
    (hf : findHandler (sysMap s.params) a = some h) :
    exec (.busRd a) s = runRead (targetRead h.target (a.toNat - h.base.toNat)) s :=
  runRead_congr (sysRead_of_find hf)

theorem exec_busWr_of_find {a : SysAddr} {s : State} {h : Handler Target} (d : Byte)
    (hf : findHandler (sysMap s.params) a = some h) :
    exec (.busWr a d) s = runWrite (targetWrite h.target (a.toNat - h.base.toNat) d) s :=
  runWrite_congr (sysWrite_of_find d hf)

/-- Settles O45: both sides are the access of the target at the relative offset. -/
theorem busRoutesToPorts : Obligations.BusRoutesToPorts := by
  intro a d s
  constructor
  · intro off ha
    have hf := findHandler_window (p := s.params) (a := a) (by omega) (by omega)
    have ho : a.toNat - s.params.ppuBase.toNat = off.toNat := by omega
    rw [exec_busRd_of_find hf, exec_busWr_of_find d hf, ho, exec_windowReadInstr, exec_windowWriteInstr]
    exact ⟨rfl, rfl⟩
  · rintro rfl hw
    have hf := findHandler_dmaPort hw
    rw [exec_busRd_of_find hf, exec_busWr_of_find d hf, Nat.sub_self]
    exact ⟨rfl, rfl⟩

/-- Settles O46: the system bus raises the address, and the operation takes the error. -/
theorem busAccessUnmapped : Obligations.BusAccessUnmapped := by
  intro a d s hs hf
  have hr : sysRead a (beginOp s) = .raised (.unmappedAddress a) (beginOp s) := sysRead_of_not_covered hf
  have hw : sysWrite a d (beginOp s) = .raised (.unmappedAddress a) (beginOp s) := sysWrite_of_not_covered d hf
  exact ⟨fun hb => ⟨runRead_of_fatal hs hr hb, runWrite_of_fatal hs hw hb⟩,
    fun hb => ⟨⟨_, runRead_of_downgraded hs hr hb⟩, runWrite_of_downgraded hs hw hb⟩⟩

/-! ## Memories and devices on the system bus (R62, R65, R66, R67) -/

theorem memRead_out (m : MemTarget) (off : Nat) (s : State) (o : Output) :
    memRead m off { s with out := o } = memRead m off s := by
  cases m <;> rfl

/-- A write of a memory neither reads nor writes the outputs. -/
theorem memWrite_out (m : MemTarget) (off : Nat) (v : Byte) (s : State) (o : Output) :
    memWrite m off v { s with out := o } = (memWrite m off v s).map (fun u => { u with out := o }) := by
  cases m with
  | pattern => simp only [memWrite]; split <;> [split; skip] <;> rfl
  | nameTable0 => simp only [memWrite]; split <;> rfl
  | nameTable1 => simp only [memWrite]; split <;> rfl
  | palette => simp only [memWrite]; split <;> rfl
  | platform id =>
    simp only [memWrite]
    split <;> [split; skip] <;> [split; skip; skip] <;> rfl

theorem deviceWrite_cases (id off : Nat) (d : Byte) (s : State) :
    deviceWrite id off d s = .done () { s with draws := s.draws + 1 } ∨
      ∃ e, deviceWrite id off d s = .raised e { s with draws := s.draws + 1 } := by
  unfold deviceWrite
  cases Config.deviceWrite id off d s.draws with
  | none => exact .inl rfl
  | some e => exact .inr ⟨e, rfl⟩

section
variable {a : SysAddr} {s : State} {h : Handler Target} {m : MemTarget}

theorem exec_busRd_mem {b : Byte} (hs : s.halted = none) (hf : findHandler (sysMap s.params) a = some h)
    (ht : h.target = .mem m) (hm : memRead m (a.toNat - h.base.toNat) s = .ok b) :
    exec (.busRd a) s = .next { s with out := ⟨some b, none, []⟩ } := by
  have hr : targetRead (.mem m) (a.toNat - h.base.toNat) (beginOp s) = .done b (beginOp s) := by
    simp only [targetRead, beginOp, memRead_out, hm]
  rw [exec_busRd_of_find hf, ht]
  exact runRead_of_done hs hr

theorem exec_busWr_mem {t : State} {d : Byte} (hs : s.halted = none) (hf : findHandler (sysMap s.params) a = some h)
    (ht : h.target = .mem m) (hm : memWrite m (a.toNat - h.base.toNat) d s = .ok t) :
    exec (.busWr a d) s = .next { t with out := ⟨none, none, []⟩ } := by
  rw [exec_busWr_of_find d hf]
  exact runWrite_of_done hs (by simp only [ht, targetWrite, beginOp, memWrite_out, hm]; rfl)

theorem exec_busWr_mem_refused {r : Refusal} {d : Byte} (hs : s.halted = none)
    (hf : findHandler (sysMap s.params) a = some h) (ht : h.target = .mem m)
    (hm : memWrite m (a.toNat - h.base.toNat) d s = .error r) : exec (.busWr a d) s = .refused r := by
  rw [exec_busWr_of_find d hf]
  exact runWrite_of_refused hs (by simp only [ht, targetWrite, beginOp, memWrite_out, hm]; rfl)

/-- A device's answer, or its error, changes the outputs, the fatal-error record and the draws at most (R62, R264). -/
theorem exec_busRd_device {id : Nat} (hs : s.halted = none)
    (hf : findHandler (sysMap s.params) a = some h) (ht : h.target = .device id) :
    ∃ o e n, exec (.busRd a) s = .next { s with out := o, halted := e, draws := n } := by
  rw [exec_busRd_of_find hf, ht]
  obtain ⟨b, hd⟩ | ⟨e, hd⟩ := deviceRead_cases id (a.toNat - h.base.toNat) (beginOp s)
  · exact ⟨_, _, _, (runRead_of_done hs hd :)⟩
  · have hr := runRead_of_raised hs hd
    rw [takeReadError_eq] at hr
    exact ⟨_, _, _, hr⟩

theorem exec_busWr_device {id : Nat} (d : Byte) (hs : s.halted = none)
    (hf : findHandler (sysMap s.params) a = some h) (ht : h.target = .device id) :
    ∃ o e n, exec (.busWr a d) s = .next { s with out := o, halted := e, draws := n } := by
  rw [exec_busWr_of_find d hf, ht]
  obtain hd | ⟨e, hd⟩ := deviceWrite_cases id (a.toNat - h.base.toNat) d (beginOp s)
  · exact ⟨_, _, _, (runWrite_of_done hs hd :)⟩
  · have hr := runWrite_of_raised hs hd
    rw [takeError_eq] at hr
    exact ⟨_, _, _, hr⟩

end

/-- Settles O47: the three outcomes of the one-byte access of a platform region. -/
theorem busReachesPlatformRegions : Obligations.BusReachesPlatformRegions := by
  intro a d s h id r hs hf ht hr hlt
  refine ⟨exec_busRd_mem hs hf ht ?_, fun hk => ?_, fun hk => exec_busWr_mem_refused hs hf ht ?_⟩
  · simp only [memRead, hr, if_pos hlt]
  · have hw : memWrite (.platform id) (a.toNat - h.base.toNat) d s =
        .ok { s with regions := s.regions.set id { r with bytes := r.bytes.write (a.toNat - h.base.toNat) d } } := by
      simp only [memWrite, hr, if_pos hlt, hk]
    exact (exec_busWr_mem hs hf ht hw :)
  · simp only [memWrite, hr, if_pos hlt, hk]

/-- Settles O48. -/
theorem busReachesMemoriesAndDevices : Obligations.BusReachesMemoriesAndDevices := by
  intro a d s h hs hf
  exact ⟨fun m b ht hm => exec_busRd_mem hs hf ht hm, fun m t ht hm => exec_busWr_mem hs hf ht hm,
    fun id ht => ⟨exec_busRd_device hs hf ht, exec_busWr_device d hs hf ht⟩⟩

/-! ## Offsets in range (R61, R76) -/

/-- The body is not refused for an offset out of range. -/
def Res.InRange {α : Type} (x : Res α) : Prop := x ≠ .refused .regionOutOfRange

theorem Res.InRange.done {α : Type} (a : α) (s : State) : (Res.done a s).InRange := nofun

theorem Res.InRange.raised {α : Type} (e : Err) (s : State) : (Res.raised e s : Res α).InRange := nofun

theorem Res.InRange.refused {α : Type} {r : Refusal} (h : r ≠ .regionOutOfRange) : (Res.refused r : Res α).InRange := by
  simpa [Res.InRange] using h

/-- An operation is refused for an offset out of range only where its body is. -/
theorem operation_inRange {α : Type} {f : State → Res α} {settle : Res α → Host.Outcome State Fault Refusal} {s : State}
    (hsettle : ∀ x, x.InRange → settle x ≠ .refused .regionOutOfRange) (h : (f (beginOp s)).InRange) :
    operation s (fun s => settle (f s)) ≠ .refused .regionOutOfRange := by
  cases hs : s.halted with
  | none => rw [operation_running hs]; exact hsettle _ h
  | some e => rw [operation_halted hs]; nofun

theorem runWrite_inRange {f : State → Res Unit} {s : State} (h : (f (beginOp s)).InRange) :
    runWrite f s ≠ .refused .regionOutOfRange := by
  refine operation_inRange (fun x hx => ?_) h
  cases x with
  | done a s => nofun
  | raised e s => nofun
  | refused r => simpa [Res.InRange, settleWrite] using hx

theorem runRead_inRange {f : State → Res Byte} {s : State} (h : (f (beginOp s)).InRange) :
    runRead f s ≠ .refused .regionOutOfRange := by
  refine operation_inRange (fun x hx => ?_) h
  cases x with
  | done a s => nofun
  | raised e s => nofun
  | refused r => simpa [Res.InRange, settleRead] using hx

theorem execTick_inRange (s : State) : execTick s ≠ .refused .regionOutOfRange := by
  cases hs : s.halted with
  | none => rw [execTick, operation_running hs]; split <;> nofun
  | some e => rw [execTick, operation_halted hs]; nofun

/-! ### The register window -/

theorem windowRead_inRange {off : Nat} (s : State) (h : off < 8) : (windowRead off s).InRange := by
  obtain hw | ⟨b, hw⟩ | ⟨e, hw⟩ | hw | ⟨hge, -⟩ := windowRead_cases off s
  · exact hw ▸ .done _ _
  · exact hw ▸ .done _ _
  · exact hw ▸ .raised _ _
  · exact hw ▸ .refused (by decide)
  · omega

theorem wrData_inRange (d : Byte) (s : State) : (wrData d s).InRange := by
  cases hk : s.vaddrKnown with
  | false => exact wrData_of_unsettled d hk ▸ .refused (by decide)
  | true =>
    obtain ⟨-, hw⟩ | ⟨-, hw⟩ | ⟨-, hw⟩ | ⟨-, hw⟩ | hw | hw := videoWrite_cases s.vaddr d s
    · exact wrData_of_done hk hw ▸ .done _ _
    · exact wrData_of_refused hk hw ▸ .refused (by decide)
    · exact wrData_of_done hk hw ▸ .done _ _
    · exact wrData_of_done hk hw ▸ .done _ _
    · exact wrData_of_done hk hw ▸ .done _ _
    · simp only [wrData, hk, if_true, hw]
      exact .raised _ _

theorem wrScroll_inRange (d : Byte) (s : State) : (wrScroll d s).InRange := by
  unfold wrScroll
  split <;> exact .done _ _

theorem wrAddr_inRange (d : Byte) (s : State) : (wrAddr d s).InRange := by
  unfold wrAddr
  split <;> [split; skip] <;> exact .done _ _

theorem windowWrite_inRange {off : Nat} (d : Byte) (s : State) (h : off < 8) : (windowWrite off d s).InRange := by
  rw [windowWrite, if_pos h]
  cases WindowPort.ofOffset (BitVec.ofNat 3 off) with
  | data => exact wrData_inRange d s
  | scroll => exact wrScroll_inRange d s
  | address => exact wrAddr_inRange d s
  | status => exact .raised _ _
  | control | mask | oamAddr | oamData => exact .done _ _

/-! ### The targets of the system bus -/

/-- The sizes of the platform's regions. -/
def State.regionSizes (s : State) : List Nat := s.regions.map (·.size)

/-- The platform's handlers reach no further than their targets: the caller's duty of R61. -/
def State.HandlersFit (s : State) : Prop := sysHandlersFit s.regionSizes s.params.sysHandlers = true

theorem memRead_inRange {m : MemTarget} {off : Nat} {s : State} (h : off < (m.size s.regionSizes).getD 0) :
    ∃ b, memRead m off s = .ok b := by
  cases m with
  | pattern | nameTable0 | nameTable1 | palette => exact ⟨_, if_pos h⟩
  | platform id =>
    simp only [MemTarget.size, State.regionSizes, List.getElem?_map] at h
    cases hr : s.regions[id]? with
    | none => simp [hr] at h
    | some r =>
      have hlt : off < r.size := by simpa [hr] using h
      exact ⟨r.bytes.read off, by simp only [memRead, hr, if_pos hlt]⟩

theorem memWrite_inRange {m : MemTarget} {off : Nat} {d : Byte} {s : State}
    (h : off < (m.size s.regionSizes).getD 0) : memWrite m off d s ≠ .error .regionOutOfRange := by
  cases m with
  | pattern => exact Eq.trans_ne (if_pos h) (by split <;> nofun)
  | nameTable0 | nameTable1 | palette => exact Eq.trans_ne (if_pos h) nofun
  | platform id =>
    simp only [MemTarget.size, State.regionSizes, List.getElem?_map] at h
    cases hr : s.regions[id]? with
    | none => simp [hr] at h
    | some r =>
      have hlt : off < r.size := by simpa [hr] using h
      simp only [memWrite, hr, if_pos hlt]
      split <;> nofun

/-- The window and the DMA port fit their targets, so every handler of the system bus does (R80). -/
theorem sysMap_fits {sizes : List Nat} {p : Params} (h : sysHandlersFit sizes p.sysHandlers = true) :
    sysHandlersFit sizes (sysMap p) = true := by
  simpa [sysHandlersFit, sysMap, registerHandler, handlerFits, Target.extent] using h

/-- Lookup in a list of handlers that fit gives an offset its target has. -/
theorem findHandler_offset_lt {sizes : List Nat} {hs : List (Handler Target)} {h : Handler Target} {a : SysAddr} {n : Nat}
    (hfit : sysHandlersFit sizes hs = true) (hf : findHandler hs a = some h) (hn : h.target.extent sizes = some n) :
    a.toNat - h.base.toNat < n := by
  have hc : handlerCovers h a = true := List.find?_some (p := (handlerCovers · a)) hf
  rw [handlerCovers_iff] at hc
  have hsize := List.all_eq_true.1 hfit h (List.mem_of_find?_eq_some hf)
  simp only [handlerFits, hn, decide_eq_true_eq] at hsize
  omega

theorem targetRead_inRange {t : Target} {off : Nat} {s : State}
    (h : ∀ n, t.extent s.regionSizes = some n → off < n) : (targetRead t off s).InRange := by
  cases t with
  | mem m =>
    obtain ⟨b, hb⟩ := memRead_inRange (h _ rfl)
    simp only [targetRead, hb]
    exact .done _ _
  | window => exact windowRead_inRange s (h 8 rfl)
  | dmaPort =>
    simp only [targetRead, dmaPortRead, if_pos (h 1 rfl)]
    exact .raised _ _
  | device id =>
    rw [targetRead]
    obtain ⟨b, hd⟩ | ⟨e, hd⟩ := deviceRead_cases id off s
    · exact hd ▸ .done _ _
    · exact hd ▸ .raised _ _

theorem sysRead_inRange (a : SysAddr) {s : State} (hs : s.HandlersFit) : (sysRead a s).InRange := by
  cases hf : findHandler (sysMap s.params) a with
  | none => exact sysRead_of_not_covered hf ▸ .raised _ _
  | some h =>
    rw [sysRead_of_find hf]
    exact targetRead_inRange (fun n hn => findHandler_offset_lt (sysMap_fits hs) hf hn)

/-! ### The DMA copy -/

/-- No source read and no stored byte moves a handler or a region, so the duty of R61 lasts for the whole copy. -/
theorem CopyEffect.handlersFit {s t : State} (h : CopyEffect s t) (hs : s.HandlersFit) : t.HandlersFit := by
  obtain ⟨⟨c, v, g, l, a, n, m, rfl⟩, -, -, -⟩ := h
  exact hs

theorem dmaCopy_inRange {page : Byte} {n i : Nat} {s : State} (hn : i + n ≤ 256) (hs : s.HandlersFit) :
    (dmaCopy page n i s).InRange := by
  induction n generalizing i s with
  | zero => exact .done _ _
  | succ n ih =>
    have hread := sysRead_inRange (dmaSource page i) hs
    rw [dmaCopy]
    cases hr : sysRead (dmaSource page i) s with
    | raised e t => exact .raised _ _
    | refused r => exact fun h => hread (by rw [hr, Res.refused.inj h])
    | done b t =>
      have hi : i < 256 := by omega
      have ht := (CopyEffect.of_read (sysRead_done hr)).handlersFit hs
      simp only [dmaStore_done b t hi]
      exact ih (by omega) ((CopyEffect.store b t hi).handlersFit ht)

theorem targetWrite_inRange {t : Target} {off : Nat} {d : Byte} {s : State} (hs : s.HandlersFit)
    (h : ∀ n, t.extent s.regionSizes = some n → off < n) : (targetWrite t off d s).InRange := by
  cases t with
  | mem m =>
    have hm := memWrite_inRange (d := d) (h _ rfl)
    simp only [targetWrite]
    cases hw : memWrite m off d s with
    | ok u => exact .done _ _
    | error r => exact .refused (fun hr => hm (by rw [hw, hr]))
  | window => exact windowWrite_inRange d s (h 8 rfl)
  | dmaPort =>
    simp only [targetWrite, dmaPortWrite, if_pos (h 1 rfl)]
    exact dmaCopy_inRange (by decide) hs
  | device id =>
    rw [targetWrite]
    obtain hd | ⟨e, hd⟩ := deviceWrite_cases id off d s
    · exact hd ▸ .done _ _
    · exact hd ▸ .raised _ _

theorem sysWrite_inRange (a : SysAddr) (d : Byte) {s : State} (hs : s.HandlersFit) : (sysWrite a d s).InRange := by
  cases hf : findHandler (sysMap s.params) a with
  | none => exact sysWrite_of_not_covered d hf ▸ .raised _ _
  | some h =>
    rw [sysWrite_of_find d hf]
    exact targetWrite_inRange hs (fun n hn => findHandler_offset_lt (sysMap_fits hs) hf hn)

/-- An operation of the register window names an offset the window has (R103). -/
theorem exec_window_inRange (off : BitVec 3) (d : Byte) (s : State) :
    exec (windowReadInstr (.ofOffset off)) s ≠ .refused .regionOutOfRange ∧
      exec (windowWriteInstr (.ofOffset off) d) s ≠ .refused .regionOutOfRange := by
  rw [exec_windowReadInstr, exec_windowWriteInstr]
  exact ⟨runRead_inRange (windowRead_inRange _ off.isLt), runWrite_inRange (windowWrite_inRange d _ off.isLt)⟩

/-- Settles O16: the window's own operations name one of its eight offsets; the bus and the DMA copy reach a target at an
offset its handler covers. -/
theorem noOffsetIsOutOfRange : Obligations.NoOffsetIsOutOfRange := by
  intro i s hfit
  have hs : (beginOp s).HandlersFit := hfit
  cases i with
  | tick => exact execTick_inRange s
  | wrDma page => exact runWrite_inRange (dmaCopy_inRange (by decide) hs)
  | rdDma => exact runRead_inRange (.raised _ _)
  | busWr a d => exact runWrite_inRange (sysWrite_inRange a d hs)
  | busRd a => exact runRead_inRange (sysRead_inRange a hs)
  | wrCtrl d => exact (exec_window_inRange 0 d s).2
  | wrMask d => exact (exec_window_inRange 1 d s).2
  | wrStatus d => exact (exec_window_inRange 2 d s).2
  | wrOamaddr d => exact (exec_window_inRange 3 d s).2
  | wrOamdata d => exact (exec_window_inRange 4 d s).2
  | wrScroll d => exact (exec_window_inRange 5 d s).2
  | wrAddr d => exact (exec_window_inRange 6 d s).2
  | wrData d => exact (exec_window_inRange 7 d s).2
  | rdCtrl => exact (exec_window_inRange 0 0 s).1
  | rdMask => exact (exec_window_inRange 1 0 s).1
  | rdStatus => exact (exec_window_inRange 2 0 s).1
  | rdOamaddr => exact (exec_window_inRange 3 0 s).1
  | rdOamdata => exact (exec_window_inRange 4 0 s).1
  | rdScroll => exact (exec_window_inRange 5 0 s).1
  | rdAddr => exact (exec_window_inRange 6 0 s).1
  | rdData => exact (exec_window_inRange 7 0 s).1

end Sys2Proof.Machine

/-! # The proofs of the encoding family (30_encoding.md)

Whether a word is reserved is read off its fields once, by `Ppu16.wellFormed_iff` and `Bus25.wellFormed_iff`. A word that
is not reserved spells the operation its fields name, and that operation's word has the same fields. -/

namespace Sys2Proof

/-! ## Reserved words (R106, R109) -/

/-- The only word of class `00` that is not reserved is `0x0000` (R101, log entry 5), so the rule on its data needs no
case of its own. -/
theorem Ppu16.wellFormed_iff (w : BitVec 16) : Ppu16.wellFormed w = true ↔
    cls w ≠ 3#2 ∧ rsv w = 0#2 ∧ (dir w = 1#1 → data w = 0#8) ∧ (cls w = 2#2 → off w = 0#3) ∧
      (cls w = 0#2 → w = 0x0000#16) := by
  have hzero (hc : cls w = 0#2) (hr : rsv w = 0#2) :
      w = 0x0000#16 ↔ dir w = 0#1 ∧ off w = 0#3 ∧ data w = 0#8 := by
    refine ⟨fun h => by subst h; decide, fun ⟨hd, ho, hx⟩ => ?_⟩
    rw [← word_fields w, hc, hd, hr, ho, hx]
    rfl
  simp only [wellFormed, classDefined, rsvClear, dataClear, dmaOffClear, tickZero, Bool.and_eq_true, Bool.or_eq_true,
    Bool.not_eq_true', Bool.or_eq_false_iff, beq_eq_false_iff_ne, bne_iff_ne, beq_iff_eq]
  grind

theorem Bus25.wellFormed_iff (w : BitVec 25) : Bus25.wellFormed w = true ↔ (dir w = 1#1 → data w = 0#8) := by
  simp [wellFormed, imp_iff_not_or]

theorem decode_eq_none_iff (w : OpWord) : decode w = none ↔ ¬ w.wellFormed = true := by
  simp [decode]

theorem decode_ppu16 {w : BitVec 16} (h : Ppu16.wellFormed w = true) : decode (.ppu16 w) = some (ppu16Instr w) :=
  if_pos h

theorem decode_bus25 {w : BitVec 25} (h : Bus25.wellFormed w = true) : decode (.bus25 w) = some (bus25Instr w) :=
  if_pos h

/-- Settles O3: the reserved words are the negation of the well-formed ones, field by field. -/
theorem reservedWordsDecodeToNothing : Obligations.ReservedWordsDecodeToNothing := by
  constructor
  · intro w
    rw [decode_eq_none_iff, OpWord.wellFormed, Ppu16.wellFormed_iff]
    simp only [Ppu16.cls, Ppu16.rsv, Ppu16.dir, Ppu16.off, Ppu16.data]
    grind
  · intro w
    rw [decode_eq_none_iff, OpWord.wellFormed, Bus25.wellFormed_iff, Classical.not_imp]
    rfl

/-! ## Decoding the word of an operation (R104, R105) -/

/-- An assembled `PPU16` word that is not reserved spells the operation its fields name (R101, R104). -/
theorem decode_ppu16Word {c : BitVec 2} {d : BitVec 1} {o : BitVec 3} {x : Byte}
    (h : (ppu16Word c d o x).wellFormed = true) : decode (ppu16Word c d o x) = some (
      if c = 0#2 then .tick
      else if c = 1#2 then
        if d = 1#1 then windowReadInstr (.ofOffset o) else windowWriteInstr (.ofOffset o) x
      else if d = 1#1 then .rdDma
      else .wrDma x) := by
  refine (decode_ppu16 h).trans ?_
  simp only [ppu16Instr, Ppu16.cls_word, Ppu16.dir_word, Ppu16.off_word, Ppu16.data_word]

theorem decode_windowWriteWord (p : WindowPort) (d : Byte) :
    decode (windowWriteWord p d) = some (windowWriteInstr p d) := by
  simpa [windowWriteWord] using decode_ppu16Word (windowWriteWord_wellFormed p d)

theorem decode_windowReadWord (p : WindowPort) : decode (windowReadWord p) = some (windowReadInstr p) := by
  simpa [windowReadWord] using decode_ppu16Word (windowReadWord_wellFormed p)

/-- An assembled `BUS25` word that is not reserved spells the operation its fields name (R102, R105). -/
theorem decode_bus25Word {d : BitVec 1} {a : SysAddr} {x : Byte} (h : (bus25Word d a x).wellFormed = true) :
    decode (bus25Word d a x) = some (if d = 1#1 then .busRd a else .busWr a x) := by
  refine (decode_bus25 h).trans ?_
  simp only [bus25Instr, Bus25.dir_word, Bus25.addr_word, Bus25.data_word]

/-- Settles O1: the word of every operation is well-formed, and the fields it is assembled from name the operation. -/
theorem decodeOfEncode : Obligations.DecodeOfEncode := by
  intro i
  cases i with
  | tick => exact decode_ppu16Word Laws.EncodeWellFormed.tick
  | wrCtrl d => exact decode_windowWriteWord .control d
  | wrMask d => exact decode_windowWriteWord .mask d
  | wrStatus d => exact decode_windowWriteWord .status d
  | wrOamaddr d => exact decode_windowWriteWord .oamAddr d
  | wrOamdata d => exact decode_windowWriteWord .oamData d
  | wrScroll d => exact decode_windowWriteWord .scroll d
  | wrAddr d => exact decode_windowWriteWord .address d
  | wrData d => exact decode_windowWriteWord .data d
  | rdCtrl => exact decode_windowReadWord .control
  | rdMask => exact decode_windowReadWord .mask
  | rdStatus => exact decode_windowReadWord .status
  | rdOamaddr => exact decode_windowReadWord .oamAddr
  | rdOamdata => exact decode_windowReadWord .oamData
  | rdScroll => exact decode_windowReadWord .scroll
  | rdAddr => exact decode_windowReadWord .address
  | rdData => exact decode_windowReadWord .data
  | wrDma page => exact decode_ppu16Word (Laws.EncodeWellFormed.wrDma page)
  | rdDma => exact decode_ppu16Word Laws.EncodeWellFormed.rdDma
  | busWr a d => exact decode_bus25Word (Laws.EncodeWellFormed.busWr a d)
  | busRd a => exact decode_bus25Word (Laws.EncodeWellFormed.busRd a)

/-! ## Encoding what a word decodes to (R106) -/

/-- The word of what a word spells has the class, the direction, the offset and the data of that word; `rsv` is `00` in
both. -/
theorem encode_ppu16Instr {w : BitVec 16} (h : Ppu16.wellFormed w = true) : encode (ppu16Instr w) = .ppu16 w := by
  obtain ⟨hclass, hrsv, hread, hdma, htick⟩ := (Ppu16.wellFormed_iff w).1 h
  have hw : ppu16Word (Ppu16.cls w) (Ppu16.dir w) (Ppu16.off w) (Ppu16.data w) = .ppu16 w := by
    rw [ppu16Word, ← hrsv, Ppu16.word_fields]
  have hclasses : ∀ c : BitVec 2, c ≠ 3#2 → c = 0#2 ∨ c = 1#2 ∨ c = 2#2 := by decide
  obtain hc | hc | hc := hclasses _ hclass
  · rw [htick hc]
    rfl
  · obtain hd | hd := BitVec.eq_zero_or_eq_one (Ppu16.dir w)
    · simp [← hw, ppu16Instr, hc, hd, encode_windowWriteInstr, windowWriteWord]
    · simp [← hw, ppu16Instr, hc, hd, hread hd, encode_windowReadInstr, windowReadWord]
  · obtain hd | hd := BitVec.eq_zero_or_eq_one (Ppu16.dir w)
    · simp [← hw, ppu16Instr, hc, hd, hdma hc, encode]
    · simp [← hw, ppu16Instr, hc, hd, hread hd, hdma hc, encode]

theorem encode_bus25Instr {w : BitVec 25} (h : Bus25.wellFormed w = true) : encode (bus25Instr w) = .bus25 w := by
  have hread := (Bus25.wellFormed_iff w).1 h
  have hw : bus25Word (Bus25.dir w) (Bus25.addr w) (Bus25.data w) = .bus25 w := by rw [bus25Word, Bus25.word_fields]
  obtain hd | hd := BitVec.eq_zero_or_eq_one (Bus25.dir w)
  · simp [← hw, bus25Instr, hd, encode]
  · simp [← hw, bus25Instr, hd, hread hd, encode]

/-- Settles O2: a word that decodes is not reserved, and what it spells has its fields. -/
theorem encodeOfDecode : Obligations.EncodeOfDecode := by
  intro w i h
  have hwf : w.wellFormed = true := by
    by_contra hn
    simp [(decode_eq_none_iff w).2 hn] at h
  cases w with
  | ppu16 w =>
    obtain rfl := Option.some.inj ((decode_ppu16 hwf).symm.trans h)
    exact encode_ppu16Instr hwf
  | bus25 w =>
    obtain rfl := Option.some.inj ((decode_bus25 hwf).symm.trans h)
    exact encode_bus25Instr hwf

end Sys2Proof

namespace Sys2Proof.Machine

/-! ## The step on a reserved word (R109, R267) -/

/-- A step on a reserved word, issued from inside the callback or not, is its refusal. -/
theorem step_reserved {s : State} {w : OpWord} {rest : List Input} (hd : decode w = none)
    (hb : s.inbox = .op w :: rest ∨ s.inbox = .nested w :: rest) :
    ∃ t, t.halted = s.halted ∧ step s = refuseReserved t := by
  obtain hb | hb := hb
  · exact ⟨{ s with inbox := rest, inCallback := false }, rfl, by simp only [step, nextInput, hb, request, hd]⟩
  · exact ⟨{ s with inbox := rest, inCallback := true }, rfl, by simp only [step, nextInput, hb, request, hd]⟩

/-- Settles O6: a reserved word has the course of an operation, whose body is the refusal. -/
theorem stepOnNoInputOrReservedWord : Obligations.StepOnNoInputOrReservedWord := by
  intro s
  refine ⟨step_nil, fun w rest hd hb => ?_⟩
  obtain ⟨t, ht, hstep⟩ := step_reserved hd hb
  rw [hstep, refuseReserved]
  exact ⟨fun hs => operation_running (ht.trans hs) _, fun e hs => operation_halted (ht.trans hs) _⟩

end Sys2Proof.Machine

/-! # The proofs of the tick and timing family (40_tick_timing.md)

A `TICK` has three courses, and the events of any operation follow from them. A line is 340 ticks within it and one at its
end; a frame is 259 lines, by induction, and then its last line. -/

namespace Sys2Proof.Machine

/-! ## The courses of `TICK` (R120, R123 to R125) -/

/-- The tick counter and the outputs do not enter what a line renders (R189, R220). -/
theorem renderLine_timer (l c : Nat) (o : Output) (s : State) :
    (renderLine l { s with tickCounter := c, out := o }).fb = (renderLine l s).fb :=
  renderLine_congr l rfl rfl rfl rfl rfl rfl rfl rfl rfl

theorem renderLine_beginOp (l : Nat) (s : State) : (renderLine l (beginOp s)).fb = (renderLine l s).fb :=
  renderLine_timer l s.tickCounter Output.empty s

section Courses

variable {s : State} (hs : s.halted = none) (hc : s.inCallback = false)
include hs hc

theorem exec_tick_running : exec .tick s = .next (tick (beginOp s)) := execTick_running hs hc

theorem exec_tick_within (h : s.tickCounter ≠ 340) :
    exec .tick s = .next { s with tickCounter := s.tickCounter + 1, out := Output.empty } :=
  (exec_tick_running hs hc).trans (congrArg _ (tick_within h))

theorem exec_tick_line (h : s.tickCounter = 340) (hl : s.scanLine ≠ 259) :
    exec .tick s = .next { s with
      fb := (renderLine s.scanLine s).fb, tickCounter := 0, scanLine := s.scanLine + 1
      vblank := if s.scanLine + 1 = 20 then false else s.vblank, out := Output.empty } := by
  rw [exec_tick_running hs hc, tick_line (s := beginOp s) h hl, beginOp_scanLine, renderLine_beginOp]
  rfl

theorem exec_tick_frame (h : s.tickCounter = 340) (hl : s.scanLine = 259) :
    exec .tick s = .next { s with
      fb := (renderLine 259 s).fb, tickCounter := 0, scanLine := 0, vblank := true, s0hit := false
      out := ⟨none, none, .present (renderLine 259 s).fb :: if s.ctrl.getLsbD 7 then [.nmi] else []⟩ } := by
  rw [exec_tick_running hs hc, tick_frame (s := beginOp s) h hl, renderLine_beginOp]
  rfl

end Courses

/-- Settles O17. -/
theorem tickCourses : Obligations.TickCourses :=
  fun _ hs hc => ⟨exec_tick_within hs hc, exec_tick_line hs hc, exec_tick_frame hs hc⟩

/-- Settles O18. -/
theorem reentrantTickIsRefused : Obligations.ReentrantTickIsRefused := by
  intro s hs hc
  rw [exec, execTick, operation_running hs]
  exact if_pos hc

/-! ## Events (R123, R124) -/

theorem exec_tick_events {s t : State} (h : exec .tick s = .next t) :
    t.out.events =
      if s.tickCounter = 340 ∧ s.scanLine = 259 then
        .present (renderLine 259 s).fb :: if s.ctrl.getLsbD 7 then [.nmi] else []
      else [] := by
  obtain ⟨hs, hc, -⟩ := execTick_next h
  by_cases ht : s.tickCounter = 340
  · by_cases hl : s.scanLine = 259
    · cases (exec_tick_frame hs hc ht hl).symm.trans h
      exact (if_pos ⟨ht, hl⟩).symm
    · cases (exec_tick_line hs hc ht hl).symm.trans h
      exact (if_neg (fun h => hl h.2)).symm
  · cases (exec_tick_within hs hc ht).symm.trans h
    exact (if_neg (fun h => ht h.1)).symm

/-- Settles O14: no operation but `TICK` emits an event, and of the courses of `TICK` the end of a frame alone. -/
theorem nmiOnlyAtTheFrameEnd : Obligations.NmiOnlyAtTheFrameEnd := by
  intro i s t h
  by_cases hi : i = .tick
  · subst hi
    rw [exec_tick_events h]
    by_cases he : s.tickCounter = 340 ∧ s.scanLine = 259
    · rw [if_pos he]
      simp [he]
    · rw [if_neg he]
      exact iff_of_false List.not_mem_nil (fun h => he ⟨h.2.1, h.2.2.1⟩)
  · have hnil : t.out.events = [] := (exec_effect hi h).events
    rw [hnil]
    exact iff_of_false List.not_mem_nil (fun h => hi h.1)

/-- An operation presents the frame of the last line, at the end of that line. -/
theorem exec_present {i : Instr} {s t : State} {f : Frame} (h : exec i s = .next t) (hf : .present f ∈ t.out.events) :
    s.scanLine = 259 ∧ f = (renderLine s.scanLine s).fb := by
  by_cases hi : i = .tick
  · subst hi
    rw [exec_tick_events h] at hf
    split at hf
    · next he =>
      obtain hf | hf := List.mem_cons.1 hf
      · exact ⟨he.2, he.2 ▸ Event.present.inj hf⟩
      · cases hb : s.ctrl.getLsbD 7 <;> simp [hb] at hf
    · cases hf
  · have hnil : t.out.events = [] := (exec_effect hi h).events
    rw [hnil] at hf
    cases hf

/-- A step that takes an input and emits an event runs an operation: a construction emits none (log entry 17). -/
theorem step_event {s t : State} {e : Event} (h : step s = .next t) (hb : s.inbox ≠ []) (he : e ∈ t.out.events) :
    ∃ i rest nested, exec i { s with inbox := rest, inCallback := nested } = .next t := by
  cases hi : s.inbox with
  | nil => exact absurd hi hb
  | cons input rest =>
    cases input with
    | op w =>
      have hn : nextInput s = request w false { s with inbox := rest } := by simp only [nextInput, hi]
      obtain ⟨i, h⟩ := step_request hn h
      exact ⟨i, rest, false, h⟩
    | nested w =>
      have hn : nextInput s = request w true { s with inbox := rest } := by simp only [nextInput, hi]
      obtain ⟨i, h⟩ := step_request hn h
      exact ⟨i, rest, true, h⟩
    | construct chr =>
      rw [step_construct hi] at h
      obtain ⟨-, rfl⟩ := construct_next h
      cases he

/-- Settles O21: before the end of line 259 the invariant has every row but the last, which that line renders. -/
theorem presentedFrameIsComplete : Obligations.PresentedFrameIsComplete := by
  intro s t f hinv h hb hf r hr
  obtain ⟨i, rest, nested, hexec⟩ := step_event h hb hf
  obtain ⟨hl, rfl⟩ := exec_present hexec hf
  have hline : s.scanLine = 259 := hl
  exact renderLine_rendered (hinv.with_inbox rest nested) r (show r + 20 < s.scanLine + 1 by omega)

/-! ## Rendering (R121, R131) -/

/-- Settles O22. -/
theorem renderingWritesOneRow : Obligations.RenderingWritesOneRow := by
  intro s l
  refine ⟨renderLine_hidden s, fun hl => ⟨_, renderLine_frame l s, ?_, fun r hr => ?_⟩⟩
  · exact (renderLine_row l s _).trans (if_pos ⟨hl, rfl⟩)
  · exact (renderLine_row l s r).trans (if_neg (fun h => hr h.2))

/-- Pattern memory and the name tables are mapped without a gap (R70). -/
theorem videoRead_below {a : VidAddr} (s : State) (h : a.toNat < 0x2800) : ∃ b, videoRead a s = .done b s :=
  ⟨_, (videoBusReads a s).1 ((videoMapped_iff _).2 (.inl h))⟩

/-- Settles O25: an address of a name table lies in that table, a plane address in pattern memory. -/
theorem rendererAddressesAreMapped : Obligations.RendererAddressesAreMapped := by
  constructor
  · intro s t row col ht hr hc
    obtain ⟨htile, htile_lt⟩ := tileAddr_toNat ht hr hc
    obtain ⟨hattr, hattr_lt⟩ := attrAddr_toNat ht hr hc
    unfold tableBase at htile hattr
    exact ⟨videoRead_below s (by omega), videoRead_below s (by omega)⟩
  · intro s base tile r hb hr
    obtain ⟨hlow, hhigh⟩ := planeAddr_toNat tile hb hr
    have := tile.isLt
    exact ⟨videoRead_below s (by omega), videoRead_below s (by omega)⟩

/-! ## Running ticks (R126) -/

theorem run_trans {a b : List Instr} {s t u : State} {es es' : List Event} (h : run a s = some (t, es))
    (h' : run b t = some (u, es')) : run (a ++ b) s = some (u, es ++ es') := by
  rw [run_append, h, Option.bind_some, h', Option.map_some]

theorem run_single {i : Instr} {s t : State} (h : exec i s = .next t) : run [i] s = some (t, t.out.events) := by
  rw [run_cons h, run_nil, Option.map_some, List.append_nil]

/-- Ticks that do not reach the end of the line move the timer alone. -/
theorem run_ticks_within {k : Nat} {s : State} (hs : s.halted = none) (hc : s.inCallback = false)
    (hk : s.tickCounter + (k + 1) ≤ 340) :
    run (List.replicate (k + 1) .tick) s =
      some ({ s with tickCounter := s.tickCounter + (k + 1), out := Output.empty }, []) := by
  induction k with
  | zero => exact run_single (exec_tick_within hs hc (by omega))
  | succ k ih =>
    rw [List.replicate_succ']
    refine run_trans (ih (by omega)) (run_single (exec_tick_within hs hc ?_))
    show s.tickCounter + (k + 1) ≠ 340
    omega

/-- From the start of a line, the 341st tick is the one at its end. -/
theorem run_line_of_exec {s t : State} (hs : s.halted = none) (hc : s.inCallback = false) (h0 : s.tickCounter = 0)
    (h : exec .tick { s with tickCounter := 340, out := Output.empty } = .next t) :
    run (List.replicate 341 .tick) s = some (t, t.out.events) := by
  have hwithin := run_ticks_within (k := 339) hs hc (by omega)
  rw [h0] at hwithin
  rw [List.replicate_succ']
  exact run_trans hwithin (run_single h)

theorem run_line {s : State} (hs : s.halted = none) (hc : s.inCallback = false) (h0 : s.tickCounter = 0)
    (hl : s.scanLine ≠ 259) :
    run (List.replicate 341 .tick) s =
      some ({ s with fb := (renderLine s.scanLine s).fb, scanLine := s.scanLine + 1
                     vblank := if s.scanLine + 1 = 20 then false else s.vblank, out := Output.empty }, []) := by
  rw [run_line_of_exec hs hc h0 (exec_tick_line hs hc rfl hl), renderLine_timer, h0]
  rfl

/-- Settles O19. -/
theorem lineOf341Ticks : Obligations.LineOf341Ticks :=
  fun _ hs hc h0 hl => run_line hs hc h0 (Nat.ne_of_lt hl)

theorem run_last_line {s : State} (hs : s.halted = none) (hc : s.inCallback = false) (h0 : s.tickCounter = 0)
    (hl : s.scanLine = 259) :
    run (List.replicate 341 .tick) s =
      some ({ s with
        fb := (renderLine 259 s).fb, tickCounter := 0, scanLine := 0, vblank := true, s0hit := false
        out := ⟨none, none, .present (renderLine 259 s).fb :: if s.ctrl.getLsbD 7 then [.nmi] else []⟩ },
        .present (renderLine 259 s).fb :: if s.ctrl.getLsbD 7 then [.nmi] else []) := by
  rw [run_line_of_exec hs hc h0 (exec_tick_frame hs hc rfl hl), renderLine_timer]

/-! ## A frame (R127, R128) -/

/-- The block `s` at the start of line `n`, with its frame, its vblank flag and its outputs. -/
def State.atLine (s : State) (n : Nat) (f : Frame) (v : Bool) (o : Output) : State :=
  { s with scanLine := n, fb := f, vblank := v, out := o }

/-- The timer and the frame do not enter what a visible row shows (R189, R220). -/
theorem atLine_rendered (s : State) (n : Nat) (f : Frame) (v : Bool) (o : Output) {r : Nat} (hr : r < 240) :
    spriteRowOver (s.atLine n f v o) r (backgroundRow (s.atLine n f v o) r) =
      spriteRowOver s r (backgroundRow s r) := by
  rw [backgroundRow_congr (s := s.atLine n f v o) (t := s) rfl rfl rfl rfl rfl rfl rfl rfl hr]
  exact spriteRowOver_congr _ _ rfl rfl rfl rfl rfl

/-- Every visible line below `n` shows what `s` renders for it. -/
def RowsBelow (s : State) (n : Nat) (f : Frame) : Prop :=
  ∀ r, r + 20 < n → f.row? r = some (spriteRowOver s r (backgroundRow s r))

/-- Rendering line `n` adds its row to those of the lines below it. -/
theorem RowsBelow.succ {s : State} {n : Nat} {f : Frame} (h : RowsBelow s n f) (hn : n < 260) (v : Bool)
    (o : Output) : RowsBelow s (n + 1) (renderLine n (s.atLine n f v o)).fb := by
  intro r hr
  rw [renderLine_row]
  split
  · exact congrArg some (atLine_rendered s n f v o (by omega))
  · next hne => exact h r (by simp only [Config.firstVisibleLine] at hne; omega)

/-- The lines before the last, one after another. -/
theorem run_lines {s : State} (hs : s.halted = none) (hc : s.inCallback = false) (h0 : s.tickCounter = 0)
    (hl : s.scanLine = 0) {n : Nat} (hn : n ≤ 259) :
    ∃ f v o, run (List.replicate (341 * n) .tick) s = some (s.atLine n f v o, []) ∧ RowsBelow s n f := by
  induction n with
  | zero => exact ⟨s.fb, s.vblank, s.out, (run_nil s).trans (by rw [State.atLine, ← hl]), nofun⟩
  | succ n ih =>
    obtain ⟨f, v, o, hrun, hrows⟩ := ih (by omega)
    have hline : run (List.replicate 341 .tick) (s.atLine n f v o) =
        some (s.atLine (n + 1) (renderLine n (s.atLine n f v o)).fb (if n + 1 = 20 then false else v)
          Output.empty, []) :=
      run_line hs hc h0 (show n ≠ 259 by omega)
    have hlines := run_trans hrun hline
    rw [List.replicate_append_replicate, ← Nat.mul_succ] at hlines
    exact ⟨_, _, _, hlines, hrows.succ (by omega) v o⟩

/-- Settles O20: 259 lines by `run_lines`, then the last line, which presents the frame. -/
theorem frameOf88660Ticks : Obligations.FrameOf88660Ticks := by
  intro s hs hc h0 hl
  obtain ⟨f, v, o, hrun, hrows⟩ := run_lines hs hc h0 hl (Nat.le_refl 259)
  have hlast := run_last_line (s := s.atLine 259 f v o) hs hc h0 rfl
  have hshown := hrows.succ (by decide) v o
  have hframe := run_trans hrun hlast
  rw [List.replicate_append_replicate, show 341 * 259 + 341 = 88660 from rfl] at hframe
  exact ⟨_, _, hframe, rfl, rfl, rfl, rfl, rfl, fun r hr => ⟨_, hshown r (by omega), rfl⟩⟩

end Sys2Proof.Machine

/-! # The proofs of the register port family (41_register_ports.md)

An equation for each write of the two toggled ports, by phase, and for the data read. The laws on sequences run these
one operation at a time; the toggle law is an induction from the end of the sequence, where the last operation decides. -/

namespace Sys2Proof.Machine

/-! ## How an access ends -/

theorem runRead_of_refused {f : State → Res Byte} {s : State} {r : Refusal} (h : s.halted = none)
    (hf : f (beginOp s) = .refused r) : runRead f s = .refused r := by
  simp [runRead, operation_running h, hf, settleRead]

/-- A protocol violation is fatal whatever `BENIGN` holds (R262, R266). -/
theorem runRead_portViolation {s : State} (p : WindowPort) (dir : Dir) (h : s.halted = none) :
    runRead (portViolation p dir) s =
      .next { s with halted := some (.protocolViolation (.window p) dir)
                     out := ⟨none, some (.protocolViolation (.window p) dir), []⟩ } :=
  runRead_of_fatal h (portViolation_eq p dir _) rfl

theorem runWrite_portViolation {s : State} (p : WindowPort) (dir : Dir) (h : s.halted = none) :
    runWrite (portViolation p dir) s =
      .next { s with halted := some (.protocolViolation (.window p) dir)
                     out := ⟨none, some (.protocolViolation (.window p) dir), []⟩ } :=
  runWrite_of_fatal h (portViolation_eq p dir _) rfl

/-! ## Plain registers and the ports without effect (R140, R141, R151 to R153) -/

/-- Settles O28. -/
theorem controlWriteStoresTheByte : Obligations.ControlWriteStoresTheByte :=
  fun d _ hs => ⟨rfl, runWrite_of_done (f := wrCtrl d) hs rfl⟩

/-- The mask does not enter what a line renders (R141). -/
theorem renderLine_mask (l : Nat) (d : Byte) (s : State) :
    renderLine l { s with mask := d } = { renderLine l s with mask := d } := by
  have hfb : (renderLine l { s with mask := d }).fb = (renderLine l s).fb :=
    renderLine_congr l rfl rfl rfl rfl rfl rfl rfl rfl rfl
  rw [renderLine_frame l { s with mask := d }, hfb, renderLine_frame l s]

/-- Settles O29. -/
theorem maskWriteHasNoEffectOnRendering : Obligations.MaskWriteHasNoEffectOnRendering :=
  fun d s hs => ⟨rfl, runWrite_of_done (f := wrMask d) hs rfl, fun l _ => renderLine_mask l d s⟩

/-- Settles O30. -/
theorem oamPortWritesChangeNothing : Obligations.OamPortWritesChangeNothing :=
  fun d _ hs =>
    ⟨rfl, rfl, runWrite_of_done (f := wrOamaddr d) hs rfl, runWrite_of_done (f := wrOamdata d) hs rfl⟩

/-- Settles O37: each of the seven is the protocol violation of its port and direction. -/
theorem portViolations : Obligations.PortViolations := by
  intro d s hs i p dir w h
  simp only [List.mem_cons, List.not_mem_nil, or_false, Prod.mk.injEq] at h
  obtain ⟨rfl, rfl, rfl, rfl⟩ | ⟨rfl, rfl, rfl, rfl⟩ | ⟨rfl, rfl, rfl, rfl⟩ | ⟨rfl, rfl, rfl, rfl⟩ |
    ⟨rfl, rfl, rfl, rfl⟩ | ⟨rfl, rfl, rfl, rfl⟩ | ⟨rfl, rfl, rfl, rfl⟩ := h
  · exact ⟨rfl, runRead_portViolation .control .read hs⟩
  · exact ⟨rfl, runRead_portViolation .mask .read hs⟩
  · exact ⟨rfl, runRead_portViolation .oamAddr .read hs⟩
  · exact ⟨rfl, runRead_portViolation .oamData .read hs⟩
  · exact ⟨rfl, runRead_portViolation .scroll .read hs⟩
  · exact ⟨rfl, runRead_portViolation .address .read hs⟩
  · exact ⟨rfl, runWrite_portViolation .status .write hs⟩

/-! ## The scroll and address ports, by phase (R145 to R147) -/

/-- The 14-bit address of a pair, in naturals (R147). -/
theorem videoAddress_eq (hi lo : Byte) :
    videoAddress hi lo = BitVec.ofNat 14 ((hi.toNat * 256 + lo.toNat) % 0x4000) := by
  have happend : (hi ++ lo).toNat = hi.toNat * 256 + lo.toNat := by
    rw [BitVec.toNat_append, ← Nat.shiftLeft_add_eq_or_of_lt lo.isLt, Nat.shiftLeft_eq]
  apply BitVec.eq_of_toNat_eq
  rw [videoAddress, BitVec.toNat_setWidth, happend, BitVec.toNat_ofNat, Nat.mod_mod]

section TogglePorts

variable {s : State} (hs : s.halted = none) (d : Byte)
include hs

theorem exec_wrScroll_first (hw : s.w = false) : exec (.wrScroll d) s =
    .next { s with scrollX := d, addrHiValid := false, w := true, out := ⟨none, none, []⟩ } :=
  runWrite_of_done hs (if_neg (by simp [hw]))

theorem exec_wrScroll_second (hw : s.w = true) :
    exec (.wrScroll d) s = .next { s with scrollY := d, w := false, out := ⟨none, none, []⟩ } :=
  runWrite_of_done hs (if_pos hw)

theorem exec_wrAddr_first (hw : s.w = false) : exec (.wrAddr d) s =
    .next { s with addrHi := d, addrHiValid := true, vaddrKnown := false, w := true, out := ⟨none, none, []⟩ } :=
  runWrite_of_done hs (if_neg (by simp [hw]))

/-- The pair began with an address write (R147). -/
theorem exec_wrAddr_completes (hw : s.w = true) (hv : s.addrHiValid = true) : exec (.wrAddr d) s =
    .next { s with vaddr := BitVec.ofNat 14 ((s.addrHi.toNat * 256 + d.toNat) % 0x4000), vaddrKnown := true
                   w := false, out := ⟨none, none, []⟩ } := by
  rw [← videoAddress_eq]
  exact runWrite_of_done hs ((if_pos hw).trans (if_pos hv))

/-- The pair began with a scroll write (R147). -/
theorem exec_wrAddr_unsettled (hw : s.w = true) (hv : s.addrHiValid = false) : exec (.wrAddr d) s =
    .next { s with vaddrKnown := false, w := false, out := ⟨none, none, []⟩ } :=
  runWrite_of_done hs ((if_pos hw).trans (if_neg (by simp [hv])))

end TogglePorts

/-- Settles O32. -/
theorem scrollWrite : Obligations.ScrollWrite :=
  fun d _ hs => ⟨rfl, exec_wrScroll_first hs d, exec_wrScroll_second hs d⟩

/-! ## The data read (R144, R150, R157) -/

theorem exec_rdData_unsettled {s : State} (hs : s.halted = none) (hk : s.vaddrKnown = false) :
    exec .rdData s = .refused .unsettledAddress :=
  runRead_of_refused (f := rdData) hs (if_neg (by simp [hk]))

theorem exec_wrData_unsettled {s : State} (hs : s.halted = none) (hk : s.vaddrKnown = false) (d : Byte) :
    exec (.wrData d) s = .refused .unsettledAddress :=
  runWrite_of_refused hs (wrData_of_unsettled d hk)

theorem rdData_of_mapped {s : State} (hk : s.vaddrKnown = true) (hm : Reference.videoMapped s.vaddr.toNat = true) :
    rdData s = .done s.readBuf { s with
      readBuf := BitVec.ofNat 8 (Reference.videoByte s s.vaddr.toNat)
      vaddr := BitVec.ofNat 14 ((s.vaddr.toNat + Reference.inc s) % 0x4000) } := by
  simp only [rdData, hk, if_true, (videoBusReads s.vaddr s).1 hm, nextVaddr_eq]

theorem exec_rdData_mapped {s : State} (hs : s.halted = none) (hk : s.vaddrKnown = true)
    (hm : Reference.videoMapped s.vaddr.toNat = true) :
    exec .rdData s = .next { s with
      readBuf := BitVec.ofNat 8 (Reference.videoByte s s.vaddr.toNat)
      vaddr := BitVec.ofNat 14 ((s.vaddr.toNat + Reference.inc s) % 0x4000)
      out := ⟨some s.readBuf, none, []⟩ } :=
  runRead_of_done (f := rdData) hs (rdData_of_mapped (s := beginOp s) hk hm)

/-- Settles O34. -/
theorem dataRead : Obligations.DataRead :=
  fun _ hs => ⟨rfl, exec_rdData_unsettled hs, exec_rdData_mapped hs⟩

/-- Settles O33: the first write of a pair leaves the address unsettled, and the data port refuses such an address. -/
theorem addressWrite : Obligations.AddressWrite := by
  intro d s hs
  refine ⟨rfl, exec_wrAddr_first hs d, exec_wrAddr_completes hs d, exec_wrAddr_unsettled hs d, fun hw t ht => ?_⟩
  rw [exec_wrAddr_first hs d hw] at ht
  cases ht
  exact ⟨exec_rdData_unsettled hs rfl, exec_wrData_unsettled hs rfl⟩

/-! ## The address pair and the reads after it (R155, R156) -/

/-- The block after an address pair, started with the toggle at 0 (R146, R147). -/
def State.afterPair (s : State) (hi lo : Byte) : State :=
  { s with addrHi := hi, addrHiValid := true, w := false, vaddrKnown := true
           vaddr := BitVec.ofNat 14 ((hi.toNat * 256 + lo.toNat) % 0x4000), out := ⟨none, none, []⟩ }

theorem run_addressPair {s : State} (hs : s.halted = none) (hw : s.w = false) (hi lo : Byte) :
    run [.wrAddr hi, .wrAddr lo] s = some (s.afterPair hi lo, []) := by
  have hfirst := exec_wrAddr_first hs hi hw
  have hsecond := exec_wrAddr_completes
    (s := { s with addrHi := hi, addrHiValid := true, vaddrKnown := false, w := true, out := ⟨none, none, []⟩ })
    hs lo rfl rfl
  exact run_trans (run_single hfirst) (run_single hsecond)

/-- Settles O39. -/
theorem addressLaw : Obligations.AddressLaw :=
  fun _ hi lo hs hw => ⟨_, _, run_addressPair hs hw hi lo, rfl, rfl⟩

theorem vidAddr_ofNat_toNat (n : Nat) : (BitVec.ofNat 14 (n % 0x4000)).toNat = n % 0x4000 := by
  rw [BitVec.toNat_ofNat, Nat.mod_mod]

/-- Settles O40: the first read fills the latch with the byte at the address, which the second read returns. -/
theorem readAheadLaw : Obligations.ReadAheadLaw := by
  intro s hi lo a hs hw ha hm hm'
  have haddr : (s.afterPair hi lo).vaddr.toNat = a := ha ▸ vidAddr_ofNat_toNat _
  have hfirst := exec_rdData_mapped (s := s.afterPair hi lo) hs rfl (haddr.symm ▸ hm)
  rw [haddr] at hfirst
  have hsecond := exec_rdData_mapped
    (s := { s.afterPair hi lo with
      readBuf := BitVec.ofNat 8 (Reference.videoByte (s.afterPair hi lo) a)
      vaddr := BitVec.ofNat 14 ((a + Reference.inc (s.afterPair hi lo)) % 0x4000)
      out := ⟨some s.readBuf, none, []⟩ }) hs rfl ((vidAddr_ofNat_toNat _).symm ▸ hm')
  exact ⟨_, _, _, _, run_trans (run_addressPair hs hw hi lo) (run_single hfirst), rfl,
    run_trans (run_addressPair hs hw hi lo) (run_trans (run_single hfirst) (run_single hsecond)), rfl⟩

/-! ## The toggle (R154) -/

/-- The operations of the toggle law: a status read, a scroll write or an address write. -/
def toggleInstr : Option (Bool × Byte) → Instr
  | none => .rdStatus
  | some (true, d) => .wrScroll d
  | some (false, d) => .wrAddr d

/-- The parity of the writes after the last status read, or of all of them where there is none. -/
def writeParity (ops : List (Option (Bool × Byte))) : Bool :=
  decide ((ops.reverse.takeWhile Option.isSome).length % 2 = 1)

theorem writeParity_snoc_none (ops : List (Option (Bool × Byte))) : writeParity (ops ++ [none]) = false := by
  simp [writeParity]

theorem writeParity_snoc_some (ops : List (Option (Bool × Byte))) (x : Bool × Byte) :
    writeParity (ops ++ [some x]) = !writeParity ops := by
  rw [writeParity, writeParity, List.reverse_append, List.reverse_singleton, List.singleton_append,
    List.takeWhile_cons_of_pos rfl, List.length_cons, ← decide_not, decide_eq_decide]
  omega

theorem exec_rdStatus_running {s : State} (hs : s.halted = none) :
    ∃ t, exec .rdStatus s = .next t ∧ t.halted = none ∧ t.w = false :=
  ⟨_, (statusRead s hs).2, hs, rfl⟩

/-- A write of a toggled port runs and inverts the toggle (R145 to R147). -/
theorem exec_toggleWrite {s : State} (hs : s.halted = none) (x : Bool × Byte) :
    ∃ t, exec (toggleInstr (some x)) s = .next t ∧ t.halted = none ∧ t.w = !s.w := by
  obtain ⟨scroll, d⟩ := x
  cases hw : s.w with
  | false =>
    cases scroll with
    | true => exact ⟨_, exec_wrScroll_first hs d hw, hs, rfl⟩
    | false => exact ⟨_, exec_wrAddr_first hs d hw, hs, rfl⟩
  | true =>
    cases scroll with
    | true => exact ⟨_, exec_wrScroll_second hs d hw, hs, rfl⟩
    | false =>
      cases hv : s.addrHiValid with
      | true => exact ⟨_, exec_wrAddr_completes hs d hw hv, hs, rfl⟩
      | false => exact ⟨_, exec_wrAddr_unsettled hs d hw hv, hs, rfl⟩

/-- By induction from the end of the sequence: its last operation clears the toggle or inverts it. -/
theorem run_toggleInstrs {s : State} (hs : s.halted = none) (hw : s.w = false) (ops : List (Option (Bool × Byte))) :
    ∃ t es, run (ops.map toggleInstr) s = some (t, es) ∧ t.halted = none ∧ t.w = writeParity ops := by
  induction ops using List.reverseRecOn with
  | nil => exact ⟨s, [], run_nil s, hs, hw⟩
  | append_singleton ops o ih =>
    obtain ⟨t, es, hrun, ht, hp⟩ := ih
    rw [List.map_append]
    cases o with
    | none =>
      obtain ⟨u, hu, hrunning, hclear⟩ := exec_rdStatus_running ht
      exact ⟨u, _, run_trans hrun (run_single hu), hrunning, hclear.trans (writeParity_snoc_none ops).symm⟩
    | some x =>
      obtain ⟨u, hu, hrunning, hinverted⟩ := exec_toggleWrite ht x
      exact ⟨u, _, run_trans hrun (run_single hu), hrunning, by rw [hinverted, hp, writeParity_snoc_some]⟩

/-- Settles O38. -/
theorem toggleLaw : Obligations.ToggleLaw := by
  intro s ops hs hw
  obtain ⟨t, es, hrun, -, hp⟩ := run_toggleInstrs hs hw ops
  exact ⟨t, es, hrun, hp⟩

end Sys2Proof.Machine

/-! # The proofs of the background family (42_background.md)

Each step of the background pixel, in the order of the rules, is the number the reference computes; the pixel chains
them, from the scrolled column to the entry of the RGB table. -/

namespace Sys2Proof.Machine

/-! ## From a palette offset to a word (R77, R188) -/

/-- The pixel word of an offset is the reference's (R77, R188). -/
theorem colourWord_eq (o : BitVec 5) (s : State) : colourWord o s = Reference.word s o.toNat := by
  have hlt : (palRead o s).toNat % 64 < s.params.rgb.toList.length := by
    rw [Vector.length_toList]; exact Nat.mod_lt _ (by decide)
  rw [Reference.word, ← palRead_toNat, List.getD_eq_getElem _ _ hlt, Vector.getElem_toList]
  rfl

/-! ## Colour indices (R186, R187) -/

theorem colourIndex_toNat (lo hi : Byte) (b : Nat) :
    (colourIndex lo hi b).toNat = 2 * Reference.bit hi.toNat b + Reference.bit lo.toNat b := by
  rw [bit_eq, bit_eq, colourIndex]
  cases hi.getLsbD b <;> cases lo.getLsbD b <;> rfl

/-- The colour index from the two planes of a tile row in pattern memory is the reference's (R186, R187). -/
theorem colourIndex_planes (s : State) (base tile r b : Nat) :
    (colourIndex (s.pat.read (base + tile * 16 + r)) (s.pat.read (base + tile * 16 + r + 8)) b).toNat =
      Reference.planes s base tile r b := by
  rw [colourIndex_toNat, Reference.planes, cell_eq, cell_eq]

/-! ## The registers the background reads (R181, R182, R184) -/

theorem ctrlBit_eq (s : State) (b : Nat) : Reference.ctrlBit s b = (s.ctrl.getLsbD b).toNat := bit_eq s.ctrl b

/-- The background pattern base (R184). -/
theorem bgBase_eq (s : State) : bgBase s = 0x1000 * Reference.ctrlBit s 4 := by
  rw [ctrlBit_eq, bgBase]
  cases s.ctrl.getLsbD 4 <;> rfl

/-- The name table of a column: the exclusive or of two numbers below 2 is their sum modulo 2 (R182). -/
theorem tableOf_eq (s : State) {px : Nat} (h : px < 256) : tableOf s (scrolledColumn s px) = Reference.bgTable s px := by
  have := s.scrollX.isLt
  rw [tableOf, Reference.bgTable, ctrlBit_eq, scrolledColumn]
  obtain hq | hq : (px + s.scrollX.toNat) / 256 = 0 ∨ (px + s.scrollX.toNat) / 256 = 1 := by omega
  all_goals rw [hq]; cases s.ctrl.getLsbD 0 <;> rfl

/-! ## Name tables and palette groups (R183, R185) -/

/-- A byte of a name table (R36). -/
theorem nameTable_read_toNat (s : State) (t o : Nat) : ((nameTable s t).read o).toNat = Reference.nameByte s t o := by
  rw [nameTable, Reference.nameByte, cell_eq, cell_eq]
  split <;> rfl

theorem paletteGroup_toNat (attr : Byte) (row col : Nat) :
    (paletteGroup attr row col).toNat = attr.toNat / 2 ^ quadrantShift row col % 4 := by
  rw [paletteGroup, BitVec.toNat_setWidth, BitVec.toNat_ushiftRight, Nat.shiftRight_eq_div_pow]

/-- The background palette offset in numbers (R187). -/
theorem bgPaletteOffset_toNat (ci grp : BitVec 2) :
    (bgPaletteOffset ci grp).toNat = if ci.toNat = 0 then 0 else 4 * grp.toNat + ci.toNat := by
  revert ci grp; decide

/-! ## The background pixel (R180 to R192) -/

section Pixel

variable (s : State) {row px : Nat} (hr : row < 240) (hp : px < 256)
include hr hp

/-- The colour index of a background pixel is the reference's (R183, R184, R186, R187). -/
theorem bgColourIndex_toNat :
    (bgColourIndex s (tableOf s (scrolledColumn s px)) row (scrolledColumn s px % 256)).toNat =
      Reference.bgIndex s row px := by
  rw [bgColourIndex_eq s (tableOf_lt s hp) hr (Nat.mod_lt _ (by decide)), colourIndex_planes, bgBase_eq,
    nameTable_read_toNat, tableOf_eq s hp]
  rfl

/-- The palette group of a background pixel is the reference's (R183, R185). -/
theorem bgGroup_toNat :
    (bgGroup s (tableOf s (scrolledColumn s px)) row (scrolledColumn s px % 256)).toNat = Reference.bgGroup s row px := by
  rw [bgGroup_eq s (tableOf_lt s hp) hr (Nat.mod_lt _ (by decide)), paletteGroup_toNat, nameTable_read_toNat,
    tableOf_eq s hp]
  rfl

/-- The palette offset of a background pixel is the reference's (R187). -/
theorem bgOffset_toNat : (bgOffset s row px).toNat = Reference.bgOffset s row px := by
  rw [bgOffset, bgPaletteOffset_toNat, bgColourIndex_toNat s hr hp, bgGroup_toNat s hr hp, Reference.bgOffset]

end Pixel

/-- Settles O23: the palette offset, then the word it selects. -/
theorem backgroundPixel : Obligations.BackgroundPixel := by
  intro s row px hr
  calc (backgroundRow s row)[px]
    _ = colourWord (bgOffset s row px) s := Vector.getElem_ofFn px.isLt
    _ = Reference.word s (bgOffset s row px).toNat := colourWord_eq _ s
    _ = Reference.word s (Reference.bgOffset s row px) := by rw [bgOffset_toNat s hr px.isLt]

/-! ## What the background depends on (R189, R190) -/

/-- Settles O26: every fetch of the background lands in a name table or in pattern memory, so the row is a function of
the listed fields. -/
theorem backgroundDependsOnlyOn : Obligations.BackgroundDependsOnlyOn :=
  fun _ _ _ => backgroundRow_congr

end Sys2Proof.Machine

/-! # The proofs of the sprite family (43_sprites.md)

An entry is opaque at a column where the reference's colour index of it is not 0, and then it draws the reference's word;
the entries are drawn in ascending order, so the last opaque one shows. -/

namespace Sys2Proof.Machine

/-! ## The registers and the entry bytes the sprites read (R38, R213) -/

/-- The sprite pattern base (R213). -/
theorem sprBase_eq (s : State) : sprBase s = 0x1000 * Reference.ctrlBit s 3 := by
  rw [ctrlBit_eq, sprBase]
  cases s.ctrl.getLsbD 3 <;> rfl

theorem spriteY_eq (s : State) (n : Nat) : spriteY s n = Reference.oamByte s n 0 := (cell_eq _ _).symm

theorem spriteTile_toNat (s : State) (n : Nat) : (spriteTile s n).toNat = Reference.oamByte s n 1 := (cell_eq _ _).symm

theorem spriteAttr_toNat (s : State) (n : Nat) : (spriteAttr s n).toNat = Reference.oamByte s n 2 := (cell_eq _ _).symm

theorem spriteX_eq (s : State) (n : Nat) : spriteX s n = Reference.oamByte s n 3 := (cell_eq _ _).symm

/-! ## Where an entry lies and what it shows there (R211 to R215) -/

/-- The rows and columns an entry reaches (R211, R214). -/
theorem sprCovers_iff (s : State) (n line px : Nat) :
    Reference.sprCovers s n line px = true ↔
      inRange (spriteY s n) line = true ∧ spriteX s n ≤ px ∧ px < spriteX s n + 8 := by
  simp [Reference.sprCovers, inRange_iff, spriteY_eq, spriteX_eq, and_assoc]

/-- Flip-vertical, attribute bit 7 (R212). -/
theorem spriteRow_eq (s : State) (n line : Nat) :
    spriteRow (spriteY s n) line (spriteAttr s n) = Reference.sprRow s n line := by
  rw [spriteRow, Reference.sprRow, ← spriteAttr_toNat, bit_eq, spriteY_eq]
  cases (spriteAttr s n).getLsbD 7 <;> rfl

/-- Flip-horizontal, attribute bit 6 (R214). -/
theorem spriteBit_eq (s : State) (n px : Nat) :
    spriteBit (spriteAttr s n) (px - spriteX s n) = Reference.sprBit s n px := by
  rw [spriteBit, Reference.sprBit, ← spriteAttr_toNat, bit_eq, spriteX_eq]
  cases (spriteAttr s n).getLsbD 6 <;> rfl

/-- The colour index of an entry where it reaches is the reference's (R212 to R214). -/
theorem spriteColourIndex_toNat {s : State} {n line px : Nat} (h : Reference.sprCovers s n line px = true) :
    (spriteColourIndex s n line (px - spriteX s n)).toNat = Reference.sprIndex s n line px := by
  have hr : inRange (spriteY s n) line = true := ((sprCovers_iff s n line px).1 h).1
  rw [spriteColourIndex_eq s _ hr, colourIndex_planes, sprBase_eq, spriteTile_toNat, spriteRow_eq, spriteBit_eq,
    Reference.sprIndex, if_pos h]

/-- An opaque entry reaches the column (R211, R214). -/
theorem sprCovers_of_opaqueAt {s : State} {line n px : Nat} (h : opaqueAt s line n px) :
    Reference.sprCovers s n line px = true := by
  obtain ⟨hr, hx, hx', -⟩ := h
  exact (sprCovers_iff s n line px).2 ⟨hr, hx, hx'⟩

/-- The reference's colour index is 0 where the entry is transparent or does not reach (R214, R216). -/
theorem opaqueAt_iff (s : State) (line n px : Nat) : opaqueAt s line n px ↔ Reference.sprIndex s n line px ≠ 0 := by
  by_cases h : Reference.sprCovers s n line px = true
  · obtain ⟨hr, hx, hx'⟩ := (sprCovers_iff s n line px).1 h
    simp [opaqueAt, hr, hx, hx', ← spriteColourIndex_toNat h, BitVec.toNat_eq]
  · exact iff_of_false (fun ho => h (sprCovers_of_opaqueAt ho)) (fun hi => hi (if_neg h))

/-- The sprite palette offset in numbers (R215). -/
theorem sprPaletteOffset_toNat (ci : BitVec 2) (attributes : Byte) :
    (sprPaletteOffset ci attributes).toNat = 0x10 + 4 * (attributes.toNat % 4) + ci.toNat := by
  have hgrp : (attributes.setWidth 2).toNat = attributes.toNat % 4 := BitVec.toNat_setWidth 2 attributes
  have happend : ∀ grp ci : BitVec 2, (1#1 ++ grp ++ ci).toNat = 0x10 + 4 * grp.toNat + ci.toNat := by decide
  rw [sprPaletteOffset, happend, hgrp]

/-- The word an entry draws where it reaches is the reference's (R215). -/
theorem spriteWord_eq {s : State} {n line px : Nat} (h : Reference.sprCovers s n line px = true) :
    spriteWord s n line (px - spriteX s n) = Reference.word s (Reference.sprOffset s n line px) := by
  rw [spriteWord, colourWord_eq, sprPaletteOffset_toNat, spriteColourIndex_toNat h, spriteAttr_toNat, Reference.sprOffset]

/-! ## The sprite pixel (R210 to R217) -/

/-- The entries are drawn in ascending order, so those drawn after entry `n` are the higher-numbered ones (R217). -/
theorem range_split {n k : Nat} (hn : n < k) :
    ∃ before after, List.range k = before ++ n :: after ∧ ∀ m ∈ after, n < m ∧ m < k := by
  obtain ⟨before, after, e⟩ := List.append_of_mem (List.mem_range.2 hn)
  refine ⟨before, after, e, fun m hm => ⟨?_, ?_⟩⟩
  · have hsorted : (before ++ n :: after).Pairwise (· < ·) := e ▸ List.pairwise_lt_range
    exact List.rel_of_pairwise_cons (List.pairwise_append.1 hsorted).2.1 hm
  · exact List.mem_range.1 (e ▸ List.mem_append_right before (List.mem_cons_of_mem n hm))

/-- Settles O24: the last opaque entry draws its word and the entries after it leave it; with none opaque, every entry
leaves the word of the row. -/
theorem spritePixel : Obligations.SpritePixel := by
  intro s line row px _
  have htransparent {m : Nat} (h : Reference.sprIndex s m line px = 0) : ¬ opaqueAt s line m px :=
    fun ho => (opaqueAt_iff s line m px).1 ho h
  constructor
  · intro n hn hi hlater
    have ho : opaqueAt s line n px := (opaqueAt_iff s line n px).2 hi
    obtain ⟨before, after, e, hafter⟩ := range_split (show n < Config.spriteEntries from hn)
    rw [spriteRowOver, e, drawSprites_last before after row ho
      (fun m hm => htransparent (hlater m (hafter m hm).1 (hafter m hm).2)), spriteWord_eq (sprCovers_of_opaqueAt ho)]
  · intro hnone
    exact drawSprites_transparent _ row (fun m hm => htransparent (hnone m (List.mem_range.1 hm)))

/-! ## What the sprites depend on (R220) -/

/-- Settles O27: the entry bytes come from sprite memory and every fetch lands in pattern memory, so the sprites are a
function of the listed fields and the row underneath. -/
theorem spritesDependOnlyOn : Obligations.SpritesDependOnlyOn :=
  fun _ _ line row ho hc hp hl hg _ => spriteRowOver_congr line row ho hc hp hl hg

end Sys2Proof.Machine

/-! # The proofs of the DMA family (44_dma_and_bus.md)

A copy stores the bytes of the page that lie in a memory, in order, up to the first source read that does not complete;
the whole copy and the copy that an unmapped byte stops are the two ends of that one prefix. -/

namespace Sys2Proof.Machine

/-! ## Source reads (R240, R242) -/

/-- A source address does not wrap (R240). -/
theorem dmaSource_toNat (page : Byte) {i : Nat} (h : i < 256) : (dmaSource page i).toNat = page.toNat * 256 + i := by
  have := page.isLt
  rw [dmaSource, BitVec.toNat_ofNat]
  omega

/-- A read of an address that lies in a memory changes nothing (R65). -/
theorem sysRead_of_mem {a : SysAddr} {s : State} {h : Handler Target} {m : MemTarget} {b : Byte}
    (hf : findHandler (sysMap s.params) a = some h) (ht : h.target = .mem m)
    (hm : memRead m (a.toNat - h.base.toNat) s = .ok b) : sysRead a s = .done b s := by
  rw [sysRead_of_find hf, ht]
  simp only [targetRead, hm]

/-- Byte `i` of the page lies in a memory and is `b` there. -/
def State.PageByte (s : State) (page : Byte) (i : Nat) (b : Byte) : Prop :=
  ∃ h m, findHandler (sysMap s.params) (dmaSource page i) = some h ∧ h.target = .mem m ∧
    memRead m (page.toNat * 256 + i - h.base.toNat) s = .ok b

/-- Its source read hands it out and changes nothing, whatever the outputs and sprite memory hold. -/
theorem State.PageByte.sysRead {s : State} {page b : Byte} {i : Nat} (h : s.PageByte page i b) (hi : i < 256)
    (o : Output) (oam : Memory) :
    sysRead (dmaSource page i) { s with out := o, oam := oam } = .done b { s with out := o, oam := oam } := by
  obtain ⟨g, m, hf, ht, hm⟩ := h
  have hread : memRead m ((dmaSource page i).toNat - g.base.toNat) { s with out := o, oam := oam } = .ok b := by
    rw [memRead_oam m _ { s with out := o } oam, memRead_out, dmaSource_toNat page hi, hm]
  exact sysRead_of_mem hf ht hread

/-! ## The bytes copied before the copy ends (R240, R241) -/

/-- Where the first `n` bytes of the page lie in memories, the copy goes on from byte `n` with those stored. -/
theorem wrDma_prefix {page : Byte} {s : State} {src : Nat → Byte} {n : Nat} (hn : n ≤ 256)
    (h : ∀ j, j < n → s.PageByte page j (src j)) :
    ∃ m, wrDma page (beginOp s) = dmaCopy page (256 - n) n { s with oam := m, out := Output.empty } ∧
      (∀ j, j < n → m.read j = src j) ∧ ∀ a, n ≤ a → m.read a = s.oam.read a := by
  obtain ⟨m, hcopy, hread⟩ := dmaCopy_pure (page := page) (src := src) (n := n) (i := 0) (s := beginOp s) (by omega)
    (fun j _ hj oam => (h j (by omega)).sysRead (by omega) Output.empty oam)
  refine ⟨m, ?_, fun j hj => by rw [hread, if_pos (by omega)], fun a ha => by rw [hread, if_neg (by omega)]; rfl⟩
  have hrest := hcopy (256 - n)
  rwa [Nat.add_sub_cancel' hn, Nat.zero_add] at hrest

/-- A source read that raises ends the copy there (R242). -/
theorem dmaCopy_of_raised {page : Byte} {n i : Nat} {s t : State} {e : Err} (hn : 0 < n)
    (h : sysRead (dmaSource page i) s = .raised e t) : dmaCopy page n i s = .raised e t := by
  obtain ⟨k, rfl⟩ := Nat.exists_eq_add_one.2 hn
  rw [dmaCopy, h]

/-- Past what its copy changes, a DMA moves only the outputs and the fatal-error record (R242, R247, R265). -/
theorem exec_wrDma_next {page : Byte} {s t : State} (h : exec (.wrDma page) s = .next t) :
    ∃ o e u, CopyEffect (beginOp s) u ∧ t = { u with out := o, halted := e } := by
  obtain ⟨-, hd | ⟨e, u, hr, rfl⟩⟩ := runWrite_next h
  · exact ⟨t.out, t.halted, t, wrDma_effect (.inl hd), rfl⟩
  · exact ⟨_, _, u, wrDma_effect (.inr ⟨e, hr⟩), takeError_eq e u⟩

/-! ## The statements -/

/-- Settles O49: all 256 bytes are stored, and the copy ends. -/
theorem dmaCopiesThePage : Obligations.DmaCopiesThePage := by
  intro p s src hs hpage
  obtain ⟨m, hcopy, hlow, hhigh⟩ := wrDma_prefix (Nat.le_refl 256) hpage
  exact ⟨m, runWrite_of_done hs hcopy, hlow, hhigh⟩

/-- Settles O50: the bytes before `k` are stored, and the source read of byte `k` raises. -/
theorem dmaStopsAtTheFirstUnmappedByte : Obligations.DmaStopsAtTheFirstUnmappedByte := by
  rintro p s src k e hs hk hpage hnone rfl
  obtain ⟨m, hcopy, hlow, hhigh⟩ := wrDma_prefix (Nat.le_of_lt hk) hpage
  have hstop := hcopy.trans (dmaCopy_of_raised (by omega) (sysRead_of_not_covered hnone))
  refine ⟨m, ?_, hlow, hhigh⟩
  have htake := runWrite_of_raised hs hstop
  rw [takeError_eq] at htake
  simp only [hs, downgraded] at htake
  exact htake

/-- Settles O51: byte 0 of the page is port 0 of the window, which refuses a read. -/
theorem dmaOfTheWindowPageRaises : Obligations.DmaOfTheWindowPageRaises := by
  intro p s hs hbase
  have haddr : (dmaSource p 0).toNat = s.params.ppuBase.toNat := by
    rw [dmaSource_toNat p (by decide), hbase, Nat.add_zero]
  have hread : sysRead (dmaSource p 0) (beginOp s) =
      .raised (.protocolViolation (.window .control) .read) (beginOp s) := by
    have hf := findHandler_window (p := s.params) (a := dmaSource p 0) (by omega) (by omega)
    rw [sysRead_of_find (s := beginOp s) hf, haddr, Nat.sub_self]
    rfl
  exact runWrite_of_fatal hs (dmaCopy_of_raised (by decide) hread) rfl

/-- Settles O53. -/
theorem dmaFrame : Obligations.DmaFrame := by
  intro p s t h
  obtain ⟨o, e, u, ⟨⟨c, v, g, l, a, n, m, rfl⟩, -, -, habove⟩, rfl⟩ := exec_wrDma_next h
  exact ⟨rfl, rfl, rfl, rfl, rfl, rfl, rfl, rfl, rfl, rfl, rfl, rfl, rfl, rfl, rfl, rfl, rfl, rfl, rfl, habove⟩

/-- Settles O52: the port refuses a read, and the bus routes to it. -/
theorem dmaPortReadIsAViolation : Obligations.DmaPortReadIsAViolation := by
  intro s hs
  refine ⟨by decide, runRead_of_fatal hs (f := dmaPortRead 0) rfl rfl, fun hw => ?_⟩
  exact ((busRoutesToPorts s.params.dmaPort 0 s).2 rfl hw).1

end Sys2Proof.Machine

/-! # The proofs of the exceptions family (60_exceptions.md)

An operation hands out an error only where its body raises one, and of the bodies only the DMA copy changes more than the
draws before it raises. -/

namespace Sys2Proof.Machine

/-- Settles O11: every operation, `TICK` included, runs its body only in a block without a fatal error. -/
theorem haltedBlockHasNoStep : Obligations.HaltedBlockHasNoStep := by
  intro i s e hs
  by_cases hi : i = .tick
  · subst hi
    exact (operation_halted hs _ : execTick s = _)
  · have hv := exec_view hi
    generalize exec i = x at hv
    cases hv with
    | portWrite | portRead | dmaWrite | dmaRead | busWrite | busRead => exact operation_halted hs _

/-! ## Bodies that raise without a change (R264) -/

/-- A body run from `s` that raises has changed the draws at most, and one that completes has not touched the outputs. -/
def Res.RaisesUnchanged {α : Type} (s : State) : Res α → Prop
  | .done _ u => u.out = s.out
  | .raised _ u => ∃ n, u = { s with draws := n }
  | .refused _ => True

theorem ReadEffect.out {s t : State} (h : ReadEffect s t) : t.out = s.out := by
  obtain ⟨⟨c, v, g, l, a, n, rfl⟩, -⟩ := h
  rfl

theorem targetRead_raisesUnchanged (p : Target) (off : Nat) (s : State) : (targetRead p off s).RaisesUnchanged s := by
  cases hx : targetRead p off s with
  | done b u => exact (targetRead_done hx).out
  | raised e u => exact targetRead_raised hx
  | refused r => trivial

theorem sysRead_raisesUnchanged (a : SysAddr) (s : State) : (sysRead a s).RaisesUnchanged s := by
  cases hx : sysRead a s with
  | done b u => exact (sysRead_done hx).out
  | raised e u => exact sysRead_raised hx
  | refused r => trivial

theorem memWrite_keeps_out {m : MemTarget} {off : Nat} {v : Byte} {s u : State} (h : memWrite m off v s = .ok u) :
    u.out = s.out := by
  obtain ⟨-, -, rfl⟩ | ⟨-, -, rfl⟩ | ⟨-, -, rfl⟩ | ⟨-, -, rfl⟩ | ⟨id, r, -, -, -, -, rfl⟩ := memWrite_ok h <;> rfl

theorem videoWrite_raisesUnchanged (a : VidAddr) (v : Byte) (s : State) : (videoWrite a v s).RaisesUnchanged s := by
  unfold videoWrite busMemWrite
  split
  · exact ⟨s.draws, rfl⟩
  · split
    · next hu => exact memWrite_keeps_out hu
    · trivial

/-- The address is incremented only after a video write that completes (R148, R150). -/
theorem wrData_raisesUnchanged (d : Byte) (s : State) : (wrData d s).RaisesUnchanged s := by
  have hv := videoWrite_raisesUnchanged s.vaddr d s
  unfold wrData
  split
  · cases hx : videoWrite s.vaddr d s with
    | done a u => rwa [hx] at hv
    | raised e u => rwa [hx] at hv
    | refused r => trivial
  · trivial

theorem windowWrite_raisesUnchanged (off : Nat) (d : Byte) (s : State) : (windowWrite off d s).RaisesUnchanged s := by
  unfold windowWrite
  split
  · cases WindowPort.ofOffset (BitVec.ofNat 3 off) with
    | control | mask | oamAddr | oamData => exact rfl
    | status => exact ⟨s.draws, rfl⟩
    | scroll =>
      simp only [wrScroll]
      split <;> exact rfl
    | address =>
      simp only [wrAddr]
      split
      · split <;> exact rfl
      · exact rfl
    | data => exact wrData_raisesUnchanged d s
  · trivial

theorem targetWrite_raisesUnchanged {p : Target} (off : Nat) (d : Byte) (s : State) (hp : p ≠ .dmaPort) :
    (targetWrite p off d s).RaisesUnchanged s := by
  cases p with
  | mem m =>
    simp only [targetWrite]
    cases hm : memWrite m off d s with
    | ok u => exact memWrite_keeps_out hm
    | error r => trivial
  | window => exact windowWrite_raisesUnchanged off d s
  | dmaPort => exact absurd rfl hp
  | device id =>
    simp only [targetWrite]
    obtain hx | ⟨e, hx⟩ := deviceWrite_cases id off d s
    · exact hx ▸ rfl
    · exact hx ▸ ⟨_, rfl⟩

theorem sysWrite_raisesUnchanged {a : SysAddr} (d : Byte) {s : State}
    (ha : ∀ h, findHandler (sysMap s.params) a = some h → h.target ≠ .dmaPort) : (sysWrite a d s).RaisesUnchanged s := by
  cases hf : findHandler (sysMap s.params) a with
  | none => exact sysWrite_of_not_covered d hf ▸ ⟨s.draws, rfl⟩
  | some h => exact sysWrite_of_find d hf ▸ targetWrite_raisesUnchanged _ d s (ha h hf)

/-! ## Operations that hand out an error -/

section
variable {s t : State} {e : Err}

theorem runWrite_error_unchanged {f : State → Res Unit} (hf : (f (beginOp s)).RaisesUnchanged (beginOp s))
    (h : runWrite f s = .next t) (he : t.out.error = some e) :
    ∃ o h n, t = { s with out := o, halted := h, draws := n } := by
  obtain ⟨-, hd | ⟨e', u, hr, rfl⟩⟩ := runWrite_next h
  · rw [hd] at hf
    have hnone : t.out.error = none := congrArg Output.error hf
    exact absurd (he.symm.trans hnone) nofun
  · rw [hr] at hf
    obtain ⟨n, rfl⟩ := hf
    exact ⟨_, _, _, takeError_eq e' _⟩

theorem runRead_error_unchanged {f : State → Res Byte} (hf : (f (beginOp s)).RaisesUnchanged (beginOp s))
    (h : runRead f s = .next t) (he : t.out.error = some e) :
    ∃ o h n, t = { s with out := o, halted := h, draws := n } := by
  obtain ⟨-, ⟨b, u, hd, rfl⟩ | ⟨e', u, hr, rfl⟩⟩ := runRead_next h
  · rw [hd] at hf
    have hnone : u.out.error = none := congrArg Output.error hf
    exact absurd (he.symm.trans hnone) nofun
  · rw [hr] at hf
    obtain ⟨n, rfl⟩ := hf
    exact ⟨_, _, _, takeReadError_eq e' _⟩

end

/-- A tick hands out no error (R131). -/
theorem tick_keeps_error (s : State) : (tick s).out.error = s.out.error := by
  by_cases h : s.tickCounter = 340
  · by_cases hl : s.scanLine = 259
    · rw [tick_frame h hl]
    · rw [tick_line h hl]
  · rw [tick_within h]

/-- Settles O15: a tick hands out no error, and every other body but the DMA copy raises without a change. -/
theorem raisingChangesNoState : Obligations.RaisingChangesNoState := by
  intro i s t e hdma hbus h he
  by_cases hi : i = .tick
  · subst hi
    obtain ⟨-, -, rfl⟩ := execTick_next h
    exact absurd (he.symm.trans (tick_keeps_error _)) nofun
  · have hv := exec_view hi
    generalize exec i = x at hv h
    cases hv with
    | portWrite off d => exact runWrite_error_unchanged (windowWrite_raisesUnchanged off d _) h he
    | portRead off => exact runRead_error_unchanged (targetRead_raisesUnchanged .window off _) h he
    | dmaWrite page => exact absurd rfl (hdma page)
    | dmaRead => exact runRead_error_unchanged (targetRead_raisesUnchanged .dmaPort 0 _) h he
    | busWrite a d => exact runWrite_error_unchanged (sysWrite_raisesUnchanged d fun g => hbus a d g rfl) h he
    | busRead a => exact runRead_error_unchanged (sysRead_raisesUnchanged a _) h he

end Sys2Proof.Machine


/-! # The proof of the sample words (95_test_vectors.md L2-E)

A word of the opcode table that is the word of an operation decodes to it (O1), and a reserved one to nothing (R106). -/

namespace Sys2Proof

theorem decodeTableWord_encode {nbits w : Nat} {i : Instr} (h : tableWord nbits w = some (encode i)) :
    decodeTableWord nbits w = some i := by
  rw [decodeTableWord, h, Option.bind_some, decodeOfEncode i]

theorem decodeTableWord_reserved {nbits w : Nat} {v : OpWord} (h : tableWord nbits w = some v)
    (hv : ¬ v.wellFormed = true) : decodeTableWord nbits w = none := by
  rw [decodeTableWord, h, Option.bind_some, (decode_eq_none_iff v).2 hv]

/-- Settles O4: each word the table gives an operation is that operation's word, and each of the others breaks a rule of
well-formedness. -/
theorem sampleWordsDecode : Obligations.SampleWordsDecode :=
  ⟨decodeTableWord_encode rfl, decodeTableWord_encode rfl, decodeTableWord_encode rfl,
    decodeTableWord_encode rfl, decodeTableWord_encode rfl, decodeTableWord_encode rfl,
    decodeTableWord_encode rfl, decodeTableWord_encode rfl, decodeTableWord_encode rfl,
    decodeTableWord_reserved (v := .ppu16 0x6201) rfl (by decide),
    decodeTableWord_reserved (v := .ppu16 0x0001) rfl (by decide),
    decodeTableWord_reserved (v := .ppu16 0x4880) rfl (by decide),
    decodeTableWord_reserved (v := .ppu16 0xC000) rfl (by decide),
    decodeTableWord_reserved (v := .ppu16 0x8102) rfl (by decide),
    decodeTableWord_reserved (v := .ppu16 0xA100) rfl (by decide),
    decodeTableWord_encode rfl, decodeTableWord_encode rfl,
    decodeTableWord_reserved (v := .bus25 0x1200201) rfl (by decide)⟩

end Sys2Proof
